-- ==== Sys2Proof/Word.lean ====
section
/-! DEFINITION. The word type of the block: the byte (R30: an unsigned 8-bit value, bits 7 down to 0), and the
number of two bytes read with the more significant one first (R48). -/
namespace Sys2Proof

/-- R30: a byte, the unit of both transport ports and of every cache entry. -/
abbrev Byte := BitVec 8

/-- `h ∥ l` as an unsigned number 0 to 65535 (R30, R102). -/
def u16 (h l : Byte) : Nat := 256 * h.toNat + l.toNat

end Sys2Proof
end

