-- ==== Sys2Proof/Config.lean ====
section
/-! DEFINITION. The constants of R5 and the parameters of R6 as plain data: protocol version, catalogue, command
table, frame id mode, operand width, RX time-out. They are fixed at instantiation (R260). The default tables and the
well-formedness of a configuration stand in Machine/Catalogue.lean and Machine/CommandTable.lean. -/
namespace Sys2Proof

/-- R5: the first byte of every stream frame. -/
abbrev header : Byte := 19#8

/-- R5: the largest script payload, in bytes. -/
abbrev maxScript : Nat := 100

/-- R5: the largest number of (note, duration) pairs of a song. -/
abbrev maxSongNotes : Nat := 16

/-- R5: the number of values of the BaudRate enumeration. -/
abbrev nBaud : Nat := 12

/-- R6, R13: the protocol version of the remote device. -/
inductive ProtocolVersion where
  | v1  -- the original protocol
  | v2  -- the later protocol
  deriving DecidableEq, Repr

/-- R6, R157, R158: how many id bytes a stream frame carries for a composite id. -/
inductive FrameIdMode where
  | atomic     -- one id byte per atomic id after expansion
  | requested  -- one id byte per requested id
  deriving DecidableEq, Repr

/-- R120: a SensorPacketDescriptor. A descriptor with a `groupRange` (first, last) is composite, one without is
atomic. -/
structure Descriptor where
  id : Nat
  byteLength : Nat
  groupRange : Option (Nat × Nat)
  deriving DecidableEq, Repr

/-- R6, R120: the sensor catalogue, a finite table of descriptors. -/
abbrev Catalogue := List Descriptor

/-- R75: the five kinds of payload field, each naming the operand of the operation (counted from 0) that it puts on
the wire. -/
inductive Field where
  | u8 (operand : Nat)
  | s16 (operand : Nat)
  | ord (operand : Nat)
  | list (operand : Nat)
  | pairs (operand : Nat)
  deriving DecidableEq, Repr

/-- R6, R199: one row of CMDTAB: for the wire operation with selector `sel`, the opcode byte it puts on TX and the
layout of the payload after it. -/
structure CmdRow where
  sel : Byte
  opcode : Byte
  layout : List Field
  deriving DecidableEq, Repr

/-- R6: the command table. -/
abbrev CmdTab := List CmdRow

/-- R6: the parameters of the block. -/
structure Config where
  /-- `PVER` (R13). -/
  pver : ProtocolVersion
  /-- `CATALOGUE` (R120). -/
  catalogue : Catalogue
  /-- `CMDTAB` (R199). -/
  cmdtab : CmdTab
  /-- `FRAME_ID_MODE` (R157, R158). -/
  frameIdMode : FrameIdMode
  /-- `VALUE_W` (R6): the width in bits of an s16 operand at the CMD port. -/
  valueW : Nat
  /-- `RX_TIMEOUT` (R23): none, or a bound on one wait. Its length is not used: the model has no clock (log entry 4). -/
  rxTimeout : Option Nat
  deriving DecidableEq, Repr

/-- R6: the default width of an s16 operand at the CMD port. -/
abbrev defaultValueW : Nat := 32

end Sys2Proof
end

