-- ==== Sys2Proof/Machine/Catalogue.lean ====
section
/-! DEFINITION. The sensor catalogue: its functions (R121 to R126), its well-formedness (R128), and the default tables
of R127. -/
namespace Sys2Proof

/-- The descriptor with packet id `id`, if the catalogue has one (R120). -/
def descriptor (c : Catalogue) (id : Nat) : Option Descriptor := c.find? (fun d => Nat.beq d.id id)

/-- R121. -/
def inCatalogue (c : Catalogue) (id : Byte) : Bool := (descriptor c id.toNat).isSome

/-- R122: the byte length of a packet. It is defined for catalogue ids only; every use stands behind a test of
`inCatalogue` (the 0 of other ids is never consulted). -/
def byteLength (c : Catalogue) (id : Byte) : Nat :=
  match descriptor c id.toNat with
  | some d => d.byteLength
  | none => 0

/-- R123: the packet is a group. -/
def isComposite (c : Catalogue) (id : Byte) : Bool :=
  match descriptor c id.toNat with
  | some d => d.groupRange.isSome
  | none => false

/-- R123, R124: every id of the inclusive range, ascending. -/
def rangeIds (first last : Nat) : List Nat := List.range' first (last + 1 - first)

/-- R124, with the depth of the recursion bounded by `fuel`. A well-formed catalogue nests at most as deep as it has
descriptors (R128 (d)), so `expand` never runs out. -/
def expandWithin (c : Catalogue) : Nat → Nat → List Byte
  | 0, _ => []
  | fuel + 1, id =>
    match descriptor c id with
    | none => []
    | some d =>
      match d.groupRange with
      | none => [BitVec.ofNat 8 id]
      | some (first, last) => (rangeIds first last).flatMap (expandWithin c fuel)

/-- R124: the atomic ids of a packet, in ascending order. -/
def expand (c : Catalogue) (id : Byte) : List Byte := expandWithin c c.length id.toNat

/-- R125: the atomic ids of a list of packets, in the caller's order, duplicates kept. -/
def expandList (c : Catalogue) (ids : List Byte) : List Byte := ids.flatMap (expand c)

/-- The sum of the byte lengths of a list of atomic ids. -/
def sumLen (c : Catalogue) (atoms : List Byte) : Nat := (atoms.map (byteLength c)).sum

/-- R126: the number of data bytes of a list of packets. -/
def totalLen (c : Catalogue) (ids : List Byte) : Nat := sumLen c (expandList c ids)

/-- R128 (a): ids are unique. -/
def idsUnique : Catalogue → Bool
  | [] => true
  | d :: ds => ds.all (fun e => !Nat.beq d.id e.id) && idsUnique ds

/-- R128 (a): ids are 0 to 255. -/
def idsInRange (c : Catalogue) : Bool := c.all (fun d => decide (d.id < 256))

/-- R128 (b). -/
def lengthsPositive (c : Catalogue) : Bool := c.all (fun d => decide (1 ≤ d.byteLength))

/-- R128 (c): ranges are not empty, and every id of a range has a descriptor. -/
def rangesPopulated (c : Catalogue) : Bool :=
  c.all (fun d =>
    match d.groupRange with
    | none => true
    | some (first, last) => decide (first ≤ last) && (rangeIds first last).all (fun m => (descriptor c m).isSome))

/-- The nesting under packet `id` ends within `fuel` levels. -/
def nestsWithin (c : Catalogue) : Nat → Nat → Bool
  | 0, _ => false
  | fuel + 1, id =>
    match descriptor c id with
    | none => true
    | some d =>
      match d.groupRange with
      | none => true
      | some (first, last) => (rangeIds first last).all (nestsWithin c fuel)

/-- R128 (d), R129: the relation "is a member of the range of" has no cycle. A chain without a cycle visits each
descriptor at most once, so it is exactly then that every nesting ends within as many levels as there are descriptors. -/
def acyclic (c : Catalogue) : Bool := c.all (fun d => nestsWithin c c.length d.id)

/-- R128 (e), R120: a group is as long as its members together. -/
def sumsMatch (c : Catalogue) : Bool :=
  c.all (fun d =>
    match d.groupRange with
    | none => true
    | some (first, last) =>
      d.byteLength == ((rangeIds first last).map
        (fun m => match descriptor c m with | some e => e.byteLength | none => 0)).sum)

/-- R128: the catalogue is well formed. -/
def catalogueWf (c : Catalogue) : Bool :=
  idsUnique c && idsInRange c && lengthsPositive c && rangesPopulated c && acyclic c && sumsMatch c

/-- Atomic descriptors with consecutive ids from `id` on, one for each length. -/
def atomicRows : Nat → List Nat → Catalogue
  | _, [] => []
  | id, n :: ns => ⟨id, n, none⟩ :: atomicRows (id + 1) ns

/-- R127: groups 0 to 6, of both versions. Their lengths are the source's; the ranges of all but group 2 are the
spec's from general knowledge (log entry 6). -/
def groupRows : Catalogue :=
  [⟨0, 26, some (7, 26)⟩, ⟨1, 10, some (7, 16)⟩, ⟨2, 6, some (17, 20)⟩, ⟨3, 10, some (21, 26)⟩,
   ⟨4, 14, some (27, 34)⟩, ⟨5, 12, some (35, 42)⟩, ⟨6, 52, some (7, 42)⟩]

/-- R127: the groups of V2 only (general knowledge, log entry 6). -/
def groupRowsV2 : Catalogue :=
  [⟨100, 80, some (7, 58)⟩, ⟨101, 28, some (43, 58)⟩, ⟨106, 12, some (46, 51)⟩, ⟨107, 9, some (54, 58)⟩]

/-- R127: the byte lengths of the atomic packets 7 to 42, by the groups they stand in: 7 to 16, 17 to 20, 21 to 26,
27 to 34, 35 to 42. Those of 17 to 20 are the source's, the others from general knowledge (log entry 6). -/
def atomicLengths : List Nat :=
  [1, 1, 1, 1, 1, 1, 1, 1, 1, 1] ++ [1, 1, 2, 2] ++ [1, 2, 2, 1, 2, 2] ++ [2, 2, 2, 2, 2, 1, 2, 1] ++
  [1, 1, 1, 1, 2, 2, 2, 2]

/-- R127: the byte lengths of the atomic packets 43 to 58, of V2 only (general knowledge, log entry 6): 43 to 45,
46 to 51, 52 and 53, 54 to 58. -/
def atomicLengthsV2 : List Nat := [2, 2, 1] ++ [2, 2, 2, 2, 2, 2] ++ [1, 1] ++ [2, 2, 2, 2, 1]

/-- R127: the default catalogue: 43 descriptors under V1, 63 under V2. -/
def defaultCatalogue : ProtocolVersion → Catalogue
  | .v1 => groupRows ++ atomicRows 7 atomicLengths
  | .v2 => groupRows ++ atomicRows 7 atomicLengths ++ atomicRows 43 atomicLengthsV2 ++ groupRowsV2

end Sys2Proof
end

