-- ==== Sys2Proof/Syntax.lean ====
section
/-! DEFINITION. The operations of the block: the operand types of a CMD record (R70) and one constructor of Instr for
each row of the operation map (R80). -/
namespace Sys2Proof

/-- R70: the types an operand of a CMD record can have. -/
inductive OperandKind where
  | u8
  | s16
  | baud
  | list
  | pairs
  deriving DecidableEq, Repr

/-- R70: an operand of a CMD record. An s16 operand is a signed integer, which is wider at the port than 16 bits so
that an out-of-range value can be presented (R6, `VALUE_W`). -/
inductive Operand where
  | u8 (b : Byte)
  | s16 (v : Int)
  | baud (code : BitVec 4)
  | list (bs : List Byte)
  | pairs (ps : List (Byte × Byte))
  deriving DecidableEq, Repr

/-- R70: the type of an operand. -/
def Operand.kind : Operand → OperandKind
  | .u8 _ => .u8
  | .s16 _ => .s16
  | .baud _ => .baud
  | .list _ => .list
  | .pairs _ => .pairs

/-- R80: the thirty-three operations, in the order of the map. -/
inductive Instr where
  | enc16 (v : Int)
  | dec16 (h l : Byte)
  | readFrame (ids : List Byte)
  | getBit (id mask : Byte)
  | getU8 (id : Byte)
  | getS16 (id : Byte)
  | getU16 (id : Byte)
  | modePassive
  | setBaud (code : BitVec 4)
  | modeSafe
  | modeFull
  | drive (velocity radius : Int)
  | lsdFull (bits : Byte)
  | leds (flags color intensity : Byte)
  | storeSong (song : Byte) (notes : List (Byte × Byte))
  | playSong (song : Byte)
  | readPacket (id : Byte)
  | lsdPwm (d2 d1 d0 : Byte)
  | driveDirect (right left : Int)
  | drivePwm (right left : Int)
  | digitalOut (bits : Byte)
  | streamStart (ids : List Byte)
  | readPacketList (ids : List Byte)
  | streamPauseResume (flag : Byte)
  | sendIr (value : Byte)
  | storeScript (script : List Byte)
  | runScript
  | readScript
  | waitTime (time : Byte)
  | waitDistance (distance : Int)
  | waitAngle (angle : Int)
  | waitEvent (event : Byte)
  | modeOff
  deriving DecidableEq, Repr

end Sys2Proof
end

