-- ==== Sys2Proof/WellFormed.lean ====
section
/-! DEFINITION. When an operation can stand in a CMD record (R70): an s16 operand is a signed integer of `VALUE_W`
bits, and a counted operand has at most 255 elements, because its count has 8 bits (R7, R12). Whether an operation
ACCEPTS its operands is no matter of well-formedness: an out-of-range s16, an unknown id or an oversized song are
well-formed operands, and the operation answers them. -/
namespace Sys2Proof

/-- R70, R6: `v` is a signed two's-complement integer of `w` bits. -/
def fitsSigned (w : Nat) (v : Int) : Bool :=
  decide (-(2 ^ (w - 1) : Int) ≤ v) && decide (v < (2 ^ (w - 1) : Int))

/-- R70: the count of a counted operand has 8 bits. -/
def fitsCount (n : Nat) : Bool := decide (n ≤ 255)

/-- R70: an operand that a CMD record with s16 operands of `w` bits can hold. -/
def Operand.wf (w : Nat) : Operand → Bool
  | .u8 _ => true
  | .s16 v => fitsSigned w v
  | .baud _ => true
  | .list bs => fitsCount bs.length
  | .pairs ps => fitsCount ps.length

/-- R70: an operation that a CMD record with s16 operands of `w` bits can hold. -/
def Instr.wf (w : Nat) : Instr → Bool
  | .enc16 v => fitsSigned w v
  | .dec16 _ _ => true
  | .readFrame ids => fitsCount ids.length
  | .getBit _ _ => true
  | .getU8 _ => true
  | .getS16 _ => true
  | .getU16 _ => true
  | .modePassive => true
  | .setBaud _ => true
  | .modeSafe => true
  | .modeFull => true
  | .drive velocity radius => fitsSigned w velocity && fitsSigned w radius
  | .lsdFull _ => true
  | .leds _ _ _ => true
  | .storeSong _ notes => fitsCount notes.length
  | .playSong _ => true
  | .readPacket _ => true
  | .lsdPwm _ _ _ => true
  | .driveDirect right left => fitsSigned w right && fitsSigned w left
  | .drivePwm right left => fitsSigned w right && fitsSigned w left
  | .digitalOut _ => true
  | .streamStart ids => fitsCount ids.length
  | .readPacketList ids => fitsCount ids.length
  | .streamPauseResume _ => true
  | .sendIr _ => true
  | .storeScript script => fitsCount script.length
  | .runScript => true
  | .readScript => true
  | .waitTime _ => true
  | .waitDistance distance => fitsSigned w distance
  | .waitAngle angle => fitsSigned w angle
  | .waitEvent _ => true
  | .modeOff => true

end Sys2Proof
end

