-- ==== Sys2Proof/Decode.lean ====
section
/-! DEFINITION. CMD records as bytes. The spec takes a record as a structured value and fixes no layout (R70), so the
byte layout is this model's (log entry 1, DESIGN CHOICE): the SEL byte, then each operand in the order of the map R80;
a u8 or baud operand is one byte; an s16 operand is its two's-complement pattern of `VALUE_W` bits in as many bytes as
that takes, high byte first; a list or pairs operand is its count byte and its bytes. Bytes after the last operand are
left over. The decoder is total and rejects by name; the encoder stands after it. -/
namespace Sys2Proof

/-- Why a byte string is no CMD record, or names no operation. -/
inductive DecodeError where
  /-- There is not even a SEL byte. -/
  | emptyRecord
  /-- R85: SEL is in no row of the map; the block answers it with `INVALID_ARGUMENT`. -/
  | unknownSelector (sel : Byte)
  /-- The record ends inside an operand. -/
  | truncated (sel : Byte)
  /-- A baud operand is a number of 4 bits (R70), and the byte holds more. -/
  | baudTooWide (sel : Byte)
  /-- An s16 operand is a number of `VALUE_W` bits (R70), and the bytes hold more. -/
  | s16TooWide (sel : Byte)
  deriving DecidableEq, Repr

/-- The number whose bytes, high byte first, are `bs`. -/
def bytesToNat (bs : List Byte) : Nat := bs.foldl (fun n b => 256 * n + b.toNat) 0

/-- The low `k` bytes of `n`, high byte first. -/
def natToBytes : Nat → Nat → List Byte
  | 0, _ => []
  | k + 1, n => natToBytes k (n / 256) ++ [BitVec.ofNat 8 n]

/-- The signed integer whose two's-complement pattern of `w` bits is `u`. -/
def toSigned (w u : Nat) : Int := if u < 2 ^ (w - 1) then (u : Int) else (u : Int) - (2 ^ w : Int)

/-- The two's-complement pattern of `w` bits of `v`. -/
def ofSigned (w : Nat) (v : Int) : Nat := (v % (2 ^ w : Int)).toNat

/-- The number of bytes an s16 operand of `w` bits takes in a record. -/
def s16Bytes (w : Nat) : Nat := (w + 7) / 8

/-- A u8 operand. -/
def takeU8 (sel : Byte) : List Byte → Except DecodeError (Byte × List Byte)
  | b :: r => .ok (b, r)
  | [] => .error (.truncated sel)

/-- A baud operand. -/
def takeBaud (sel : Byte) : List Byte → Except DecodeError (BitVec 4 × List Byte)
  | b :: r => if b.toNat < 16 then .ok (BitVec.ofNat 4 b.toNat, r) else .error (.baudTooWide sel)
  | [] => .error (.truncated sel)

/-- An s16 operand of `w` bits. -/
def takeS16 (w : Nat) (sel : Byte) (r : List Byte) : Except DecodeError (Int × List Byte) :=
  if r.length < s16Bytes w then .error (.truncated sel)
  else if bytesToNat (r.take (s16Bytes w)) < 2 ^ w then
    .ok (toSigned w (bytesToNat (r.take (s16Bytes w))), r.drop (s16Bytes w))
  else .error (.s16TooWide sel)

/-- A list operand: count byte, then that many bytes. -/
def takeList (sel : Byte) : List Byte → Except DecodeError (List Byte × List Byte)
  | n :: r => if r.length < n.toNat then .error (.truncated sel) else .ok (r.take n.toNat, r.drop n.toNat)
  | [] => .error (.truncated sel)

/-- The next `n` pairs of bytes. -/
def takePairsN (sel : Byte) : Nat → List Byte → Except DecodeError (List (Byte × Byte) × List Byte)
  | 0, r => .ok ([], r)
  | n + 1, a :: b :: r =>
    match takePairsN sel n r with
    | .ok (ps, r') => .ok ((a, b) :: ps, r')
    | .error e => .error e
  | _ + 1, _ => .error (.truncated sel)

/-- A pairs operand: count byte, then that many pairs of bytes. -/
def takePairs (sel : Byte) : List Byte → Except DecodeError (List (Byte × Byte) × List Byte)
  | n :: r => takePairsN sel n.toNat r
  | [] => .error (.truncated sel)

/-- The operation that selector `sel` selects, with its operands read from `r` (R80). -/
def decodeOperands (w : Nat) (sel : Byte) (r : List Byte) : Except DecodeError (Instr × List Byte) :=
  match sel.toNat with
  | 0x01 => do let (v, r) ← takeS16 w sel r; .ok (.enc16 v, r)
  | 0x02 => do let (h, r) ← takeU8 sel r; let (l, r) ← takeU8 sel r; .ok (.dec16 h l, r)
  | 0x10 => do let (e, r) ← takeList sel r; .ok (.readFrame e, r)
  | 0x20 => do let (id, r) ← takeU8 sel r; let (mask, r) ← takeU8 sel r; .ok (.getBit id mask, r)
  | 0x21 => do let (id, r) ← takeU8 sel r; .ok (.getU8 id, r)
  | 0x22 => do let (id, r) ← takeU8 sel r; .ok (.getS16 id, r)
  | 0x23 => do let (id, r) ← takeU8 sel r; .ok (.getU16 id, r)
  | 0x80 => .ok (.modePassive, r)
  | 0x81 => do let (code, r) ← takeBaud sel r; .ok (.setBaud code, r)
  | 0x83 => .ok (.modeSafe, r)
  | 0x84 => .ok (.modeFull, r)
  | 0x89 => do let (v, r) ← takeS16 w sel r; let (ra, r) ← takeS16 w sel r; .ok (.drive v ra, r)
  | 0x8A => do let (b, r) ← takeU8 sel r; .ok (.lsdFull b, r)
  | 0x8B => do
    let (ls, r) ← takeU8 sel r; let (c, r) ← takeU8 sel r; let (i, r) ← takeU8 sel r; .ok (.leds ls c i, r)
  | 0x8C => do let (song, r) ← takeU8 sel r; let (ns, r) ← takePairs sel r; .ok (.storeSong song ns, r)
  | 0x8D => do let (song, r) ← takeU8 sel r; .ok (.playSong song, r)
  | 0x8E => do let (id, r) ← takeU8 sel r; .ok (.readPacket id, r)
  | 0x90 => do
    let (d2, r) ← takeU8 sel r; let (d1, r) ← takeU8 sel r; let (d0, r) ← takeU8 sel r; .ok (.lsdPwm d2 d1 d0, r)
  | 0x91 => do let (ri, r) ← takeS16 w sel r; let (le, r) ← takeS16 w sel r; .ok (.driveDirect ri le, r)
  | 0x92 => do let (ri, r) ← takeS16 w sel r; let (le, r) ← takeS16 w sel r; .ok (.drivePwm ri le, r)
  | 0x93 => do let (b, r) ← takeU8 sel r; .ok (.digitalOut b, r)
  | 0x94 => do let (ids, r) ← takeList sel r; .ok (.streamStart ids, r)
  | 0x95 => do let (ids, r) ← takeList sel r; .ok (.readPacketList ids, r)
  | 0x96 => do let (f, r) ← takeU8 sel r; .ok (.streamPauseResume f, r)
  | 0x97 => do let (v, r) ← takeU8 sel r; .ok (.sendIr v, r)
  | 0x98 => do let (bs, r) ← takeList sel r; .ok (.storeScript bs, r)
  | 0x99 => .ok (.runScript, r)
  | 0x9A => .ok (.readScript, r)
  | 0x9B => do let (t, r) ← takeU8 sel r; .ok (.waitTime t, r)
  | 0x9C => do let (d, r) ← takeS16 w sel r; .ok (.waitDistance d, r)
  | 0x9D => do let (a, r) ← takeS16 w sel r; .ok (.waitAngle a, r)
  | 0x9E => do let (e, r) ← takeU8 sel r; .ok (.waitEvent e, r)
  | 0xAD => .ok (.modeOff, r)
  | _ => .error (.unknownSelector sel)

/-- The operation a CMD record holds, with what is left over after its last operand; `w` is `VALUE_W`. -/
def decode (w : Nat) : List Byte → Except DecodeError (Instr × List Byte)
  | [] => .error .emptyRecord
  | sel :: r => decodeOperands w sel r

/-- R80, R71: the selector of an operation. For a wire operation it is the opcode. -/
def Instr.sel : Instr → Byte
  | .enc16 _ => 0x01#8
  | .dec16 _ _ => 0x02#8
  | .readFrame _ => 0x10#8
  | .getBit _ _ => 0x20#8
  | .getU8 _ => 0x21#8
  | .getS16 _ => 0x22#8
  | .getU16 _ => 0x23#8
  | .modePassive => 0x80#8
  | .setBaud _ => 0x81#8
  | .modeSafe => 0x83#8
  | .modeFull => 0x84#8
  | .drive _ _ => 0x89#8
  | .lsdFull _ => 0x8A#8
  | .leds _ _ _ => 0x8B#8
  | .storeSong _ _ => 0x8C#8
  | .playSong _ => 0x8D#8
  | .readPacket _ => 0x8E#8
  | .lsdPwm _ _ _ => 0x90#8
  | .driveDirect _ _ => 0x91#8
  | .drivePwm _ _ => 0x92#8
  | .digitalOut _ => 0x93#8
  | .streamStart _ => 0x94#8
  | .readPacketList _ => 0x95#8
  | .streamPauseResume _ => 0x96#8
  | .sendIr _ => 0x97#8
  | .storeScript _ => 0x98#8
  | .runScript => 0x99#8
  | .readScript => 0x9A#8
  | .waitTime _ => 0x9B#8
  | .waitDistance _ => 0x9C#8
  | .waitAngle _ => 0x9D#8
  | .waitEvent _ => 0x9E#8
  | .modeOff => 0xAD#8

/-- R80: the operands of an operation, in the order of the map. -/
def Instr.operands : Instr → List Operand
  | .enc16 v => [.s16 v]
  | .dec16 h l => [.u8 h, .u8 l]
  | .readFrame ids => [.list ids]
  | .getBit id mask => [.u8 id, .u8 mask]
  | .getU8 id => [.u8 id]
  | .getS16 id => [.u8 id]
  | .getU16 id => [.u8 id]
  | .modePassive => []
  | .setBaud code => [.baud code]
  | .modeSafe => []
  | .modeFull => []
  | .drive velocity radius => [.s16 velocity, .s16 radius]
  | .lsdFull bits => [.u8 bits]
  | .leds flags color intensity => [.u8 flags, .u8 color, .u8 intensity]
  | .storeSong song notes => [.u8 song, .pairs notes]
  | .playSong song => [.u8 song]
  | .readPacket id => [.u8 id]
  | .lsdPwm d2 d1 d0 => [.u8 d2, .u8 d1, .u8 d0]
  | .driveDirect right left => [.s16 right, .s16 left]
  | .drivePwm right left => [.s16 right, .s16 left]
  | .digitalOut bits => [.u8 bits]
  | .streamStart ids => [.list ids]
  | .readPacketList ids => [.list ids]
  | .streamPauseResume flag => [.u8 flag]
  | .sendIr value => [.u8 value]
  | .storeScript script => [.list script]
  | .runScript => []
  | .readScript => []
  | .waitTime time => [.u8 time]
  | .waitDistance distance => [.s16 distance]
  | .waitAngle angle => [.s16 angle]
  | .waitEvent event => [.u8 event]
  | .modeOff => []

/-- The bytes of an operand in a record. -/
def encodeOperand (w : Nat) : Operand → List Byte
  | .u8 b => [b]
  | .s16 v => natToBytes (s16Bytes w) (ofSigned w v)
  | .baud code => [BitVec.ofNat 8 code.toNat]
  | .list bs => BitVec.ofNat 8 bs.length :: bs
  | .pairs ps => BitVec.ofNat 8 ps.length :: ps.flatMap (fun p => [p.1, p.2])

/-- The CMD record of an operation; `w` is `VALUE_W`. -/
def encode (w : Nat) (i : Instr) : List Byte := i.sel :: i.operands.flatMap (encodeOperand w)

/-- How many operand bytes of zeros stand after a table row's bits: as many as the longest record has. -/
def maxRecordBytes : Nat := 513

/-- The bytes of an instruction whose bits are `w`: bit 0 is the least significant bit of the first byte. -/
def tableBytes : Nat → Nat → List Byte
  | 0, _ => []
  | k + 1, w => BitVec.ofNat 8 w :: tableBytes k (w / 256)

/-- The record whose first bits are a table row's and whose operand bytes are otherwise zero. -/
def tableRecord (nbits w : Nat) : List Byte :=
  tableBytes ((nbits + 7) / 8) (w % 2 ^ nbits) ++ List.replicate maxRecordBytes 0#8

/-- The operation the decoder reads from an instruction whose bits are `w`, numbered as the opcode table numbers them
and laid out by `tableRecord`; `VALUE_W` is the default. -/
def decodeTableWord (nbits w : Nat) : Option Instr :=
  match decode defaultValueW (tableRecord nbits w) with
  | .ok (i, _) => some i
  | .error _ => none

end Sys2Proof
end

