-- ==== Sys2Proof/Machine/Operands.lean ====
section
/-! DEFINITION. Operands: the byte codec (R100 to R102) and the marshalling of operands into payload bytes by a layout
of the command table (R74 to R78). -/
namespace Sys2Proof

/-- R103: the values an s16 operand may have. -/
def inS16 (v : Int) : Bool := decide (-32768 ≤ v) && decide (v ≤ 32767)

/-- R100: the 16-bit two's-complement pattern of an integer -32768 to 32767. -/
def pattern16 (v : Int) : Nat := (if 0 ≤ v then v else v + 65536).toNat

/-- R100: the pair (high, low), and nothing for a value outside -32768 to 32767 (U1: no result is defined there). -/
def enc16 (v : Int) : Option (Byte × Byte) :=
  if inS16 v then some (BitVec.ofNat 8 (pattern16 v / 256), BitVec.ofNat 8 (pattern16 v % 256)) else none

/-- R101: the signed integer whose pattern is `h ∥ l`. -/
def dec16 (h l : Byte) : Int := if u16 h l < 32768 then (u16 h l : Int) else (u16 h l : Int) - 65536

/-- R102: the unsigned integer `h ∥ l`. -/
def decu16 (h l : Byte) : Nat := u16 h l

/-- R180: an s16 operand is in -32768 to 32767; operands of other types are always accepted (R87). -/
def Operand.inRange : Operand → Bool
  | .s16 v => inS16 v
  | .u8 _ => true
  | .baud _ => true
  | .list _ => true
  | .pairs _ => true

/-- R190: note, duration, note, duration, and so on. -/
def flattenPairs (ps : List (Byte × Byte)) : List Byte := ps.flatMap (fun p => [p.1, p.2])

/-- R75 to R78: the payload bytes of one field, and nothing when the operand it names is absent or of another type. -/
def marshalField (ops : List Operand) : Field → Option (List Byte)
  | .u8 k => match ops[k]? with
    | some (.u8 b) => some [b]
    | _ => none
  | .s16 k => match ops[k]? with
    | some (.s16 v) => (enc16 v).map (fun p => [p.1, p.2])
    | _ => none
  | .ord k => match ops[k]? with
    | some (.baud code) => some [BitVec.ofNat 8 code.toNat]
    | _ => none
  | .list k => match ops[k]? with
    | some (.list bs) => some (BitVec.ofNat 8 bs.length :: bs)
    | _ => none
  | .pairs k => match ops[k]? with
    | some (.pairs ps) => some (BitVec.ofNat 8 ps.length :: flattenPairs ps)
    | _ => none

/-- R74: the payload of a layout, field after field. -/
def marshal (ops : List Operand) : List Field → Option (List Byte)
  | [] => some []
  | f :: fs =>
    match marshalField ops f, marshal ops fs with
    | some bs, some rest => some (bs ++ rest)
    | _, _ => none

/-- The row of the command table for a selector. -/
def cmdRow (tab : CmdTab) (sel : Byte) : Option CmdRow := tab.find? (fun r => r.sel == sel)

/-- R74, R199: the bytes an operation puts on TX: the opcode, then the payload. -/
def commandBytes (tab : CmdTab) (i : Instr) : Option (List Byte) :=
  match cmdRow tab i.sel with
  | none => none
  | some r => (marshal i.operands r.layout).map (fun payload => r.opcode :: payload)

end Sys2Proof
end

