-- ==== Sys2Proof/Machine/CommandTable.lean ====
section
/-! DEFINITION. The command table: the operand types of the 26 wire operations (R80), when a table fits them, the
default table (R80, R199), and the default configuration. -/
namespace Sys2Proof

/-- R80: the selectors of the 26 wire operations with the types of their operands. -/
def wireOperands : List (Byte × List OperandKind) :=
  [(0x80#8, []), (0x81#8, [.baud]), (0x83#8, []), (0x84#8, []), (0x89#8, [.s16, .s16]), (0x8A#8, [.u8]),
   (0x8B#8, [.u8, .u8, .u8]), (0x8C#8, [.u8, .pairs]), (0x8D#8, [.u8]), (0x8E#8, [.u8])] ++
  [(0x90#8, [.u8, .u8, .u8]), (0x91#8, [.s16, .s16]), (0x92#8, [.s16, .s16]), (0x93#8, [.u8]), (0x94#8, [.list]),
   (0x95#8, [.list]), (0x96#8, [.u8]), (0x97#8, [.u8]), (0x98#8, [.list])] ++
  [(0x99#8, []), (0x9A#8, []), (0x9B#8, [.u8]), (0x9C#8, [.s16]), (0x9D#8, [.s16]), (0x9E#8, [.u8]), (0xAD#8, [])]

/-- R75: a field names an operand of its own type. -/
def Field.fits (kinds : List OperandKind) : Field → Bool
  | .u8 k => kinds[k]? == some .u8
  | .s16 k => kinds[k]? == some .s16
  | .ord k => kinds[k]? == some .baud
  | .list k => kinds[k]? == some .list
  | .pairs k => kinds[k]? == some .pairs

/-- A table that can stand as CMDTAB: every wire operation has a row, whose fields fit its operands (log entry 7). -/
def cmdTabWf (tab : CmdTab) : Bool :=
  wireOperands.all (fun w =>
    match cmdRow tab w.1 with
    | some r => r.layout.all (Field.fits w.2)
    | none => false)

/-- A row whose opcode is its selector (R71). -/
def plainRow (op : Byte) (layout : List Field) : CmdRow := ⟨op, op, layout⟩

/-- R80, R199: the default command table. The opcodes are the source's; most layouts are the spec's from general
knowledge (log entry 7). -/
def defaultCmdTab : CmdTab :=
  -- the mode operations (R111 to R114)
  [plainRow 0x80#8 [], plainRow 0x83#8 [], plainRow 0x84#8 [], plainRow 0xAD#8 []] ++
  -- SET_BAUD, DRIVE, LSD_FULL, LEDS, STORE_SONG, PLAY_SONG (R181, R182, R187, R185, R190, R191)
  [plainRow 0x81#8 [.ord 0], plainRow 0x89#8 [.s16 0, .s16 1], plainRow 0x8A#8 [.u8 0],
   plainRow 0x8B#8 [.u8 0, .u8 1, .u8 2], plainRow 0x8C#8 [.u8 0, .pairs 1], plainRow 0x8D#8 [.u8 0]] ++
  -- READ_PACKET, READ_PACKET_LIST (R136, R137), STREAM_START, STREAM_PAUSE_RESUME (R151, R152)
  [plainRow 0x8E#8 [.u8 0], plainRow 0x95#8 [.list 0], plainRow 0x94#8 [.list 0], plainRow 0x96#8 [.u8 0]] ++
  -- LSD_PWM, DRIVE_DIRECT, DRIVE_PWM, DIGITAL_OUT, SEND_IR (R186, R183, R184, R188, R189)
  [plainRow 0x90#8 [.u8 0, .u8 1, .u8 2], plainRow 0x91#8 [.s16 0, .s16 1], plainRow 0x92#8 [.s16 0, .s16 1],
   plainRow 0x93#8 [.u8 0], plainRow 0x97#8 [.u8 0]] ++
  -- STORE_SCRIPT, RUN_SCRIPT, READ_SCRIPT, WAIT_TIME, WAIT_DISTANCE, WAIT_ANGLE, WAIT_EVENT (R192 to R198)
  [plainRow 0x98#8 [.list 0], plainRow 0x99#8 [], plainRow 0x9A#8 [], plainRow 0x9B#8 [.u8 0],
   plainRow 0x9C#8 [.s16 0], plainRow 0x9D#8 [.s16 0], plainRow 0x9E#8 [.u8 0]]

/-- R6, R128, R260: a configuration an instance can have: a well-formed catalogue, a command table that fits the
operations, an operand width of at least 17 bits. -/
def Config.wf (c : Config) : Bool := catalogueWf c.catalogue && cmdTabWf c.cmdtab && decide (17 ≤ c.valueW)

/-- R6: the defaults of every parameter, for the chosen protocol version (which has no default). -/
def defaultConfig (p : ProtocolVersion) : Config where
  pver := p
  catalogue := defaultCatalogue p
  cmdtab := defaultCmdTab
  frameIdMode := .atomic
  valueW := defaultValueW
  rxTimeout := none

end Sys2Proof
end

