-- ==== Sys2Proof/Machine/State.lean ====
section
/-! DEFINITION. The state of the block (R10), the reasons a step can stop, and the state after reset (R261). -/
namespace Sys2Proof.Machine

/-- R11: the OperatingMode last requested. -/
inductive OperatingMode where
  | off
  | passive
  | safe
  | full
  deriving DecidableEq, Repr

/-- R18: where inside the current operation the sequencer is. -/
inductive Phase where
  | idle
  | check
  | emit
  | resp
  | hunt
  | flen
  | pid
  | pdata
  | fchk
  | commit
  deriving DecidableEq, Repr

/-- R73: how an operation ended. -/
inductive Status where
  | ok
  | invalidArgument
  | transportFailure
  | protocolDesync
  | frameIntegrity
  | notPopulated
  deriving DecidableEq, Repr

/-- R73: the sub-cause of a status. -/
inductive SubCause where
  | none
  | length
  | id
  | checksum
  deriving DecidableEq, Repr

/-- R72: the DATA part of a result. -/
inductive ResData where
  | none
  | bytes (bs : List Byte)
  | pair (high low : Byte)
  | int (v : Int)
  | bool (b : Bool)
  deriving DecidableEq, Repr

/-- R16: the command latch. -/
structure CmdLatch where
  sel : Byte
  operands : List Operand
  deriving DecidableEq, Repr

/-- R17: the result latch. -/
structure ResLatch where
  status : Status
  sub : SubCause
  data : ResData
  deriving DecidableEq, Repr

/-- R19: the working registers, local to one operation. -/
structure Work where
  /-- `TXI`: index of the next byte of the command to write. -/
  txi : Nat
  /-- `ALIST`: the expected atomic ids. -/
  alist : List Byte
  /-- `TOTAL`: the number of data bytes expected, also the retry budget. -/
  total : Nat
  /-- `DISC`: bytes discarded so far in HUNT. -/
  disc : Nat
  /-- `CHK`: running checksum, 8 bits. -/
  chk : Byte
  /-- `FLENR`: the frame length byte as read. -/
  flenr : Byte
  /-- `IDX`: index of the current packet. -/
  idx : Nat
  /-- `CNT`: data bytes of the current packet still to read. -/
  cnt : Nat
  /-- `STAGE`: the data bytes read so far. -/
  stage : List Byte
  deriving DecidableEq, Repr

/-- R14, R41: the sensor cache. The entry of packet id `id` is valid exactly when the list holds a pair `(id, data)`;
an unlisted entry is invalid and reads as nothing. The canonical form is `Memory.wf`. -/
abbrev Memory := List (Nat × List Byte)

/-- R23: what an `RxRead` can be given: a byte, or an I/O failure. -/
inductive RxItem where
  | byte (b : Byte)
  | fail
  deriving DecidableEq, Repr

/-- R10: the state of the block, with the configuration of its instance and the environment's part. -/
structure State where
  /-- The parameters (R6), fixed at instantiation: no step changes them (R10, R260). -/
  cfg : Config
  /-- `MODE` (R11). -/
  mode : OperatingMode
  /-- `SREQ` (R12); `SREQ_N` is its length. -/
  sreq : List Byte
  /-- `CACHE` (R14, R41). -/
  cache : Memory
  /-- `PHASE` (R18). -/
  phase : Phase
  /-- `CMD` (R16). -/
  cmd : CmdLatch
  /-- `RES` (R17). -/
  res : ResLatch
  /-- The working registers (R19). -/
  work : Work
  /-- The CMD records the host has placed and the block has not accepted yet (R8, R25). Not state of the block. -/
  host : List (List Byte)
  /-- The RX items not consumed yet (R23, R24, R25). Not state of the block. -/
  rx : List RxItem
  /-- Whether each coming TX write succeeds; past the end of the list writes succeed (R22, R25, log entry 3). Not state
  of the block. -/
  txFates : List Bool
  /-- The history of the bytes written on TX, oldest first (R22). Not state of the block. -/
  txLog : List Byte
  deriving DecidableEq, Repr

/-- The reasons the machine stops. The block's own errors are statuses in RES (R230), never one of these. -/
inductive Fault where
  /-- Raised by `step` when PHASE is CHECK, EMIT or COMMIT between two steps. The block passes through these phases
  inside a step only, since it waits for nothing there (R18, R22). No run from reset meets it; safe. -/
  | phaseNotAtRest
  /-- Raised by an accessor when a valid cache entry does not hold as many bytes as the catalogue gives the packet:
  `MemRead` is not defined there (R43). No run from reset meets it; safe. -/
  | cacheEntryLength
  deriving DecidableEq, Repr

/-- The reasons a step is refused: it has no meaning. -/
inductive Refusal where
  /-- Raised by an arm of `exec` for an instruction that has no meaning yet. Safe. -/
  | notModelled (mnemonic : String)
  /-- Raised by ENC16 and by every wire operation with an s16 operand when that operand is outside -32768 to 32767:
  "a model must refuse it" (R103, R180, R237, U1). Safe. -/
  | s16OutOfRange
  /-- Raised by a wire operation when the command table has no row for it or the row's layout does not fit its
  operands. `Config.wf` rules it out (log entry 7). Safe. -/
  | commandTable
  /-- Raised by `step` when the configuration is not well formed: such an instance "does not leave reset" (R260,
  U12). Safe. -/
  | illFormedInstance
  /-- Raised by `step` when the bytes at the CMD port are no CMD record (R70, log entry 14). Safe. -/
  | malformedRecord (e : DecodeError)
  deriving DecidableEq, Repr

/-- The outcome of an operation or of a step. -/
abbrev Result := Host.Outcome State Fault Refusal

/-- The working registers with nothing in them. The spec leaves their values open outside an operation (R19, R261);
these are the model's (log entry 10). -/
def Work.cleared : Work where
  txi := 0
  alist := []
  total := 0
  disc := 0
  chk := 0#8
  flenr := 0#8
  idx := 0
  cnt := 0
  stage := []

/-- R261: the block right after instantiation with configuration `c`. The values of CMD, RES and the working
registers are the model's (log entries 8, 9, 10), and so is the environment's part (log entry 11). -/
def State.resetWith (c : Config) : State where
  cfg := c
  mode := .off
  sreq := []
  cache := []
  phase := .idle
  cmd := ⟨0#8, []⟩
  res := ⟨.ok, .none, .none⟩
  work := Work.cleared
  host := []
  rx := []
  txFates := []
  txLog := []

/-- R261, for the default configuration of protocol version V2 (log entry 5). -/
def State.reset : State := State.resetWith (defaultConfig .v2)

end Sys2Proof.Machine
end

