-- ==== Sys2Proof/Machine/Flags.lean ====
section
/-! DEFINITION. The block has no condition codes (R20). Here stand the nearest things: the numeric codes of status,
sub-cause, mode, phase and protocol version, the running checksum, and the tests an operation makes once. -/
namespace Sys2Proof.Machine

/-- R73: the 3-bit STATUS code. -/
def Status.code : Status → BitVec 3
  | .ok => 0#3
  | .invalidArgument => 1#3
  | .transportFailure => 2#3
  | .protocolDesync => 3#3
  | .frameIntegrity => 4#3
  | .notPopulated => 5#3

/-- R73: the 2-bit SUB code. -/
def SubCause.code : SubCause → BitVec 2
  | .none => 0#2
  | .length => 1#2
  | .id => 2#2
  | .checksum => 3#2

/-- R11: the 2-bit MODE code. -/
def OperatingMode.code : OperatingMode → BitVec 2
  | .off => 0#2
  | .passive => 1#2
  | .safe => 2#2
  | .full => 3#2

/-- R18: the 4-bit PHASE code. -/
def Phase.code : Phase → BitVec 4
  | .idle => 0#4
  | .check => 1#4
  | .emit => 2#4
  | .resp => 3#4
  | .hunt => 4#4
  | .flen => 5#4
  | .pid => 6#4
  | .pdata => 7#4
  | .fchk => 8#4
  | .commit => 9#4

/-- R13: the 1-bit PVER code. -/
def pverCode : ProtocolVersion → BitVec 1
  | .v1 => 0#1
  | .v2 => 1#1

/-- R12: `SREQ_N`, the number of remembered ids. -/
def State.sreqN (s : State) : BitVec 8 := BitVec.ofNat 8 s.sreq.length

/-- R159: one more byte in the running checksum, modulo 256. -/
def addChecksum (chk b : Byte) : Byte := chk + b

/-- R159: the frame is valid. -/
def checksumOk (chk : Byte) : Bool := chk == 0#8

/-- R156: the declared frame length, compared as a natural number and not modulo 256. -/
def lengthOk (flen : Byte) (total m : Nat) : Bool := flen.toNat == total + m

/-- R49, R221: the eight single-bit masks. -/
def isSingleBit (mask : Byte) : Bool :=
  [0x01#8, 0x02#8, 0x04#8, 0x08#8, 0x10#8, 0x20#8, 0x40#8, 0x80#8].contains mask

/-- R221: the bit of `d` that `mask` selects is 1. -/
def testBit (d mask : Byte) : Bool := (d &&& mask) != 0#8

/-- R18: the phases in which the block waits for an RX byte. -/
def Phase.waits : Phase → Bool
  | .resp | .hunt | .flen | .pid | .pdata | .fchk => true
  | .idle | .check | .emit | .commit => false

end Sys2Proof.Machine
end

