-- ==== Sys2Proof/Machine/Memory.lean ====
section
/-! DEFINITION. The sensor cache as a memory (R41 to R46): its canonical form, the read and the write of one whole
entry, and the commit of a read operation. -/
namespace Sys2Proof.Machine

/-- The canonical form: ids strictly rising and at most 255. (An unlisted entry reads as nothing and a listed one as
its data, so no listed entry equals what an unlisted one reads as.) -/
abbrev Memory.wf (m : Memory) : Prop := m.Pairwise (fun a b => a.1 < b.1) ∧ ∀ e ∈ m, e.1 < 256

/-- R43: the data of entry `id`, and nothing when its valid bit is 0. -/
def Memory.read : Memory → Nat → Option (List Byte)
  | [], _ => none
  | (k, d) :: r, id => if k = id then some d else Memory.read r id

/-- R14: `CACHE[id].valid`. -/
def Memory.valid (m : Memory) (id : Nat) : Bool := (m.read id).isSome

/-- Byte `j` of entry `id`. -/
def Memory.readByte (m : Memory) (id j : Nat) : Option Byte :=
  match m.read id with
  | some d => d[j]?
  | none => none

/-- R44: the whole entry is replaced and its valid bit set. -/
def Memory.write : Memory → Nat → List Byte → Memory
  | [], id, v => [(id, v)]
  | (k, d) :: r, id, v =>
    if id < k then (id, v) :: (k, d) :: r
    else if id = k then (id, v) :: r
    else (k, d) :: Memory.write r id v

/-- R46: the staged bytes are written to the atomic ids in order, each taking as many bytes as the catalogue says; a
later occurrence of an id overwrites an earlier one. -/
def Memory.commit (c : Catalogue) : List Byte → List Byte → Memory → Memory
  | [], _, m => m
  | a :: as, stage, m =>
    Memory.commit c as (stage.drop (byteLength c a)) (m.write a.toNat (stage.take (byteLength c a)))

end Sys2Proof.Machine
end

