-- ==== Sys2Proof/Machine/Ops.lean ====
section
/-! DEFINITION. The operations the meanings share: accepting an operation, raising an error status and ending with OK,
writing a command to TX, reading from RX as the automaton of PHASE and the working registers, and the environment's
part. -/
namespace Sys2Proof.Machine

/-- R8, R16: the operation is latched and its operands are about to be checked; the working registers hold nothing of
an earlier operation (R19). -/
def State.accept (i : Instr) (s : State) : State :=
  { s with cmd := ⟨i.sel, i.operands⟩, phase := .check, work := Work.cleared }

/-- R239: `raise <STATUS>(sub)`: the operation stops, the working registers are dropped, RES holds the status and no
data, PHASE is IDLE, and nothing else changes. There is no return from it (R241). -/
def State.raise (status : Status) (sub : SubCause) (s : State) : State :=
  { s with phase := .idle, res := ⟨status, sub, .none⟩, work := Work.cleared }

/-- R231, R31: `return OK(data)`: RES holds the data, the working registers are dropped (R45), PHASE is IDLE (R18). -/
def State.finish (data : ResData) (s : State) : State :=
  { s with phase := .idle, res := ⟨.ok, .none, data⟩, work := Work.cleared }

/-- TX has taken the bytes `bs`, and `fates` are the fates of the writes to come; `TXI` is the index of the next byte
of the command (R19). -/
def State.wrote (bs : List Byte) (fates : List Bool) (s : State) : State :=
  { s with txLog := s.txLog ++ bs, txFates := fates, work := { s.work with txi := s.work.txi + bs.length } }

/-- R22, R31: `TxWrite(b)`. The transport takes the byte or fails; a failed byte counts as not written (R233, D7).
The flag says whether it was taken. -/
def State.txWrite (b : Byte) (s : State) : Bool × State :=
  match s.txFates with
  | [] => (true, s.wrote [b] [])
  | true :: fates => (true, s.wrote [b] fates)
  | false :: fates => (false, s.wrote [] fates)

/-- R180: the bytes of a command, written one after the other; the first failure stops the writing. -/
def State.txBytes : List Byte → State → Bool × State
  | [], s => (true, s)
  | b :: bs, s =>
    match s.txWrite b with
    | (true, s') => State.txBytes bs s'
    | (false, s') => (false, s')

/-- R18, R180: the sequencer enters EMIT, with `TXI` at the first byte. -/
def State.startEmit (s : State) : State := { s with phase := .emit }

/-- R180, R135, R110: a wire operation. It is latched; if its own check fails it ends with `INVALID_ARGUMENT` and
nothing is sent; an s16 operand out of range has no outcome (R103); the whole command is made before its first byte is
written; a failed write ends it with `TRANSPORT_FAILURE` (R233); otherwise `after` goes on from the state with the
command sent. -/
def emitThen (i : Instr) (check : Bool) (after : State → State) (s : State) : Result :=
  if check then
    if i.operands.all Operand.inRange then
      match commandBytes s.cfg.cmdtab i with
      | some bs =>
        match State.txBytes bs (s.accept i).startEmit with
        | (true, s') => .next (after s')
        | (false, s') => .next (s'.raise .transportFailure .none)
      | none => .refused .commandTable
    else .refused .s16OutOfRange
  else .next ((s.accept i).raise .invalidArgument .none)

/-- R16, R158: the list operand of the operation in progress. -/
def CmdLatch.idList (c : CmdLatch) : List Byte :=
  match c.operands with
  | .list ids :: _ => ids
  | _ => []

/-- The byte length of element `k` of a list of atomic ids, and 0 past its end. -/
def lenAt (c : Catalogue) (atoms : List Byte) (k : Nat) : Nat :=
  match atoms[k]? with
  | some a => byteLength c a
  | none => 0

/-- R153, R157, R158: the ids that a frame carries an id byte for, in order: each atomic id, or each requested id. -/
def State.frameIds (s : State) : List Byte :=
  match s.cfg.frameIdMode with
  | .atomic => s.work.alist
  | .requested => s.cmd.idList

/-- R153, R158: the data bytes that follow an id byte in a frame. -/
def unitLen (c : Catalogue) (id : Byte) : Nat := totalLen c [id]

/-- R138: reading the response begins. -/
def State.startResp (alist : List Byte) (s : State) : State :=
  { s with phase := .resp
           work := { s.work with alist := alist, idx := 0, cnt := lenAt s.cfg.catalogue alist 0, stage := [] } }

/-- R153 step 1 and the entry of HUNT (R154, R155). -/
def State.startHunt (ids : List Byte) (s : State) : State :=
  { s with phase := .hunt
           work := { s.work with alist := expandList s.cfg.catalogue ids, total := totalLen s.cfg.catalogue ids,
                                 disc := 0, idx := 0, stage := [] } }

/-- R46, R160: COMMIT of a read operation: the staged bytes go into the cache and are the result. -/
def State.commitStage (s : State) : State :=
  State.finish (.bytes s.work.stage)
    { s with cache := Memory.commit s.cfg.catalogue s.work.alist s.work.stage s.cache }

/-- What the block does before it reads the next byte: the hunt's budget is tested before each read (R155), and a
response that is complete is committed (R136). In every other phase there is nothing to do. -/
def State.settle (s : State) : State :=
  match s.phase with
  | .hunt => if s.work.disc = s.work.total then s.raise .protocolDesync .none else s
  | .resp => if s.work.alist.length ≤ s.work.idx then s.commitStage else s
  | .idle | .check | .emit | .flen | .pid | .pdata | .fchk | .commit => s

/-- R138: a response byte is staged; after the last byte of a packet the next packet begins. -/
def State.onResp (b : Byte) (s : State) : State :=
  { s with work :=
      if s.work.cnt ≤ 1 then
        { s.work with stage := s.work.stage ++ [b], idx := s.work.idx + 1,
                      cnt := lenAt s.cfg.catalogue s.work.alist (s.work.idx + 1) }
      else { s.work with stage := s.work.stage ++ [b], cnt := s.work.cnt - 1 } }

/-- R155: a byte equal to 19 ends the hunt and starts the checksum; any other byte is discarded. -/
def State.onHunt (b : Byte) (s : State) : State :=
  if b = header then { s with phase := .flen, work := { s.work with chk := header } }
  else { s with work := { s.work with disc := s.work.disc + 1 } }

/-- R156, R162: the frame length byte. -/
def State.onFlen (b : Byte) (s : State) : State :=
  if lengthOk b s.work.total s.frameIds.length then
    { s with phase := if s.frameIds.length = 0 then .fchk else .pid
             work := { s.work with flenr := b, chk := addChecksum s.work.chk b, idx := 0, stage := [] } }
  else s.raise .frameIntegrity .length

/-- R157, R158: a packet id byte. -/
def State.onPid (b : Byte) (s : State) : State :=
  match s.frameIds[s.work.idx]? with
  | some want =>
    if b = want then
      { s with phase := .pdata
               work := { s.work with chk := addChecksum s.work.chk b, cnt := unitLen s.cfg.catalogue want } }
    else s.raise .frameIntegrity .id
  | none => s.raise .frameIntegrity .id

/-- R153 step 4, R162: a data byte of a frame; after the last one of a unit comes the next id byte or the checksum. -/
def State.onPdata (b : Byte) (s : State) : State :=
  if s.work.cnt ≤ 1 then
    { s with phase := if s.work.idx + 1 < s.frameIds.length then .pid else .fchk
             work := { s.work with stage := s.work.stage ++ [b], chk := addChecksum s.work.chk b,
                                   idx := s.work.idx + 1, cnt := 0 } }
  else
    { s with work := { s.work with stage := s.work.stage ++ [b], chk := addChecksum s.work.chk b,
                                   cnt := s.work.cnt - 1 } }

/-- R159, R160: the checksum byte. -/
def State.onFchk (b : Byte) (s : State) : State :=
  if checksumOk (addChecksum s.work.chk b) then s.commitStage else s.raise .frameIntegrity .checksum

/-- R162, R138: an RX item arrives. A byte is taken by the phase the block waits in; a failure ends the operation with
`TRANSPORT_FAILURE` (R233). -/
def State.onItem (item : RxItem) (s : State) : State :=
  match item with
  | .fail => s.raise .transportFailure .none
  | .byte b =>
    match s.phase with
    | .resp => s.onResp b
    | .hunt => s.onHunt b
    | .flen => s.onFlen b
    | .pid => s.onPid b
    | .pdata => s.onPdata b
    | .fchk => s.onFchk b
    | .idle | .check | .emit | .commit => s

/-- What is left on RX. -/
def State.withRx (items : List RxItem) (s : State) : State := { s with rx := items }

/-- R23, R244: the block waits for a byte and the transport has none: it stays where it is, or, with `RX_TIMEOUT` set,
the operation ends with `TRANSPORT_FAILURE` (log entry 4). -/
def State.rxExhausted (s : State) : State :=
  match s.cfg.rxTimeout with
  | none => s.withRx []
  | some _ => (s.withRx []).raise .transportFailure .none

/-- R23: the operation in progress reads the items one by one until it ends or there are none left; what it does not
read stays on RX (R163). -/
def State.pump : List RxItem → State → State
  | [], s => if s.settle.phase.waits then s.settle.rxExhausted else s.settle.withRx []
  | item :: items, s =>
    if s.settle.phase.waits then State.pump items (s.settle.onItem item)
    else s.settle.withRx (item :: items)

/-- The operation in progress reads what the transport holds. -/
def State.runRx (s : State) : State := State.pump s.rx s

/-- R23: an operation that waits for RX goes on with what has arrived since. -/
def resume (s : State) : Result :=
  if s.phase.waits then .next s.runRx else .fault .phaseNotAtRest

/-- R85: a CMD record whose SEL is in no row of the map ends at once with `INVALID_ARGUMENT`. -/
def unknownSelector (sel : Byte) (s : State) : State :=
  State.raise .invalidArgument .none { s with cmd := ⟨sel, []⟩, phase := .check, work := Work.cleared }

/-- What the CMD port holds for an idle block. -/
inductive Accepted where
  | waiting                            -- no record
  | run (i : Instr) (s : State)        -- an operation, and the state without its record
  | unknown (sel : Byte) (s : State)   -- a record whose SEL is in no row
  | malformed (e : DecodeError)        -- bytes that are no CMD record
  deriving DecidableEq, Repr

/-- R8, R70: the block takes the first record the host has placed. -/
def State.takeRecord (s : State) : Accepted :=
  match s.host with
  | [] => .waiting
  | record :: rest =>
    match decode s.cfg.valueW record with
    | .ok (i, _) => .run i { s with host := rest }
    | .error (.unknownSelector sel) => .unknown sel { s with host := rest }
    | .error e => .malformed e

/-- R9: the host places one more record on the CMD port. -/
def State.issue (record : List Byte) (s : State) : State := { s with host := s.host ++ [record] }

/-- R9, R23: the transport delivers more items on RX. -/
def State.deliver (items : List RxItem) (s : State) : State := { s with rx := s.rx ++ items }

end Sys2Proof.Machine
end

