-- ==== Sys2Proof/Machine/Accessors.lean ====
section
/-! DEFINITION. The typed accessors (R220 to R224): they decode a cached entry and touch no port. -/
namespace Sys2Proof.Machine

/-- R220: `AccessCheck(id, len)`, then `use` on the data; in this order: the id is unknown or a group, it has another
length, its entry is not populated. -/
def accessThen (i : Instr) (id : Byte) (len : Nat) (use : List Byte → ResData) (s : State) : Result :=
  if !inCatalogue s.cfg.catalogue id || isComposite s.cfg.catalogue id then
    .next ((s.accept i).raise .invalidArgument .none)
  else if byteLength s.cfg.catalogue id ≠ len then .next ((s.accept i).raise .invalidArgument .none)
  else
    match s.cache.read id.toNat with
    | none => .next ((s.accept i).raise .notPopulated .none)
    | some d => if d.length = len then .next ((s.accept i).finish (use d)) else .fault .cacheEntryLength

/-- R222: the byte as an unsigned integer. -/
def dataU8 : List Byte → ResData
  | [b] => .int b.toNat
  | _ => .none

/-- R221: the masked bit as a boolean. -/
def dataBit (mask : Byte) : List Byte → ResData
  | [b] => .bool (testBit b mask)
  | _ => .none

/-- R223: the signed big-endian decode. -/
def dataS16 : List Byte → ResData
  | [h, l] => .int (dec16 h l)
  | _ => .none

/-- R224: the unsigned big-endian decode. -/
def dataU16 : List Byte → ResData
  | [h, l] => .int (decu16 h l)
  | _ => .none

/-- R221. -/
def execGetBit (id mask : Byte) (s : State) : Result :=
  if isSingleBit mask then accessThen (.getBit id mask) id 1 (dataBit mask) s
  else .next ((s.accept (.getBit id mask)).raise .invalidArgument .none)

/-- R222. -/
def execGetU8 (id : Byte) (s : State) : Result := accessThen (.getU8 id) id 1 dataU8 s

/-- R223. -/
def execGetS16 (id : Byte) (s : State) : Result := accessThen (.getS16 id) id 2 dataS16 s

/-- R224. -/
def execGetU16 (id : Byte) (s : State) : Result := accessThen (.getU16 id) id 2 dataU16 s

end Sys2Proof.Machine
end

