-- ==== Sys2Proof/Machine/Codec.lean ====
section
/-! DEFINITION. The codec operations (R103, R104). They touch no port and no state but CMD and RES. -/
namespace Sys2Proof.Machine

/-- R103. -/
def execEnc16 (v : Int) (s : State) : Result :=
  match enc16 v with
  | some (high, low) => .next ((s.accept (.enc16 v)).finish (.pair high low))
  | none => .refused .s16OutOfRange

/-- R104. -/
def execDec16 (h l : Byte) (s : State) : Result :=
  .next ((s.accept (.dec16 h l)).finish (.int (dec16 h l)))

end Sys2Proof.Machine
end

