-- ==== Sys2Proof/Machine/Commands.lean ====
section
/-! DEFINITION. The one-shot commands (R180 to R198): opcode and payload, and nothing else. -/
namespace Sys2Proof.Machine

/-- R180: `Emit(check, B)`. -/
def emitOnly (i : Instr) (check : Bool) (s : State) : Result := emitThen i check (State.finish .none) s

/-- R181: the ordinals 12 to 15 name no rate. -/
def execSetBaud (code : BitVec 4) (s : State) : Result := emitOnly (.setBaud code) (decide (code.toNat < nBaud)) s

/-- R182. -/
def execDrive (velocity radius : Int) (s : State) : Result := emitOnly (.drive velocity radius) true s

/-- R183. -/
def execDriveDirect (right left : Int) (s : State) : Result := emitOnly (.driveDirect right left) true s

/-- R184. -/
def execDrivePwm (right left : Int) (s : State) : Result := emitOnly (.drivePwm right left) true s

/-- R185. -/
def execLeds (flags color intensity : Byte) (s : State) : Result := emitOnly (.leds flags color intensity) true s

/-- R186. -/
def execLsdPwm (d2 d1 d0 : Byte) (s : State) : Result := emitOnly (.lsdPwm d2 d1 d0) true s

/-- R187. -/
def execLsdFull (bits : Byte) (s : State) : Result := emitOnly (.lsdFull bits) true s

/-- R188. -/
def execDigitalOut (bits : Byte) (s : State) : Result := emitOnly (.digitalOut bits) true s

/-- R189. -/
def execSendIr (value : Byte) (s : State) : Result := emitOnly (.sendIr value) true s

/-- R190: at most sixteen notes. -/
def execStoreSong (song : Byte) (notes : List (Byte × Byte)) (s : State) : Result :=
  emitOnly (.storeSong song notes) (decide (notes.length ≤ maxSongNotes)) s

/-- R191. -/
def execPlaySong (song : Byte) (s : State) : Result := emitOnly (.playSong song) true s

/-- R192: at most one hundred bytes. -/
def execStoreScript (script : List Byte) (s : State) : Result :=
  emitOnly (.storeScript script) (decide (script.length ≤ maxScript)) s

/-- R193. -/
def execRunScript (s : State) : Result := emitOnly .runScript true s

/-- R194: the opcode is sent and nothing is read (D23). -/
def execReadScript (s : State) : Result := emitOnly .readScript true s

/-- R195. -/
def execWaitTime (time : Byte) (s : State) : Result := emitOnly (.waitTime time) true s

/-- R196. -/
def execWaitDistance (distance : Int) (s : State) : Result := emitOnly (.waitDistance distance) true s

/-- R197. -/
def execWaitAngle (angle : Int) (s : State) : Result := emitOnly (.waitAngle angle) true s

/-- R198. -/
def execWaitEvent (event : Byte) (s : State) : Result := emitOnly (.waitEvent event) true s

end Sys2Proof.Machine
end

