-- ==== Sys2Proof/Machine/Mode.lean ====
section
/-! DEFINITION. The mode operations (R110 to R114): one opcode byte, then MODE is recorded. -/
namespace Sys2Proof.Machine

/-- R110: COMMIT of a mode operation. -/
def State.commitMode (m : OperatingMode) (s : State) : State := State.finish .none { s with mode := m }

/-- R111. -/
def execModePassive (s : State) : Result := emitThen .modePassive true (State.commitMode .passive) s

/-- R112. -/
def execModeSafe (s : State) : Result := emitThen .modeSafe true (State.commitMode .safe) s

/-- R113. -/
def execModeFull (s : State) : Result := emitThen .modeFull true (State.commitMode .full) s

/-- R114: Off cannot be expressed under V1. -/
def execModeOff (s : State) : Result :=
  emitThen .modeOff (s.cfg.pver != .v1) (State.commitMode .off) s

end Sys2Proof.Machine
end

