-- ==== Sys2Proof/Machine/Reader.lean ====
section
/-! DEFINITION. The single-shot sensor reader (R135 to R138): the request, then the bare response. -/
namespace Sys2Proof.Machine

/-- R136. -/
def execReadPacket (id : Byte) (s : State) : Result :=
  emitThen (.readPacket id) (inCatalogue s.cfg.catalogue id)
    (fun t => (t.startResp (expand t.cfg.catalogue id)).runRx) s

/-- R137: all ids are checked before the first byte is written. -/
def execReadPacketList (ids : List Byte) (s : State) : Result :=
  emitThen (.readPacketList ids) (ids.all (inCatalogue s.cfg.catalogue))
    (fun t => (t.startResp (expandList t.cfg.catalogue ids)).runRx) s

end Sys2Proof.Machine
end

