-- ==== Sys2Proof/Machine/Stream.lean ====
section
/-! DEFINITION. Streaming (R150 to R168): the two control commands and the frame decoder. -/
namespace Sys2Proof.Machine

/-- R151: COMMIT of STREAM_START. -/
def State.commitSreq (ids : List Byte) (s : State) : State := State.finish .none { s with sreq := ids }

/-- R151. -/
def execStreamStart (ids : List Byte) (s : State) : Result :=
  emitThen (.streamStart ids) (ids.all (inCatalogue s.cfg.catalogue)) (State.commitSreq ids) s

/-- R152: SREQ is kept. -/
def execStreamPauseResume (flag : Byte) (s : State) : Result :=
  emitThen (.streamPauseResume flag) true (State.finish .none) s

/-- R153: nothing is written to TX; an unknown id is refused before RX is touched. -/
def execReadFrame (ids : List Byte) (s : State) : Result :=
  if ids.all (inCatalogue s.cfg.catalogue) then .next ((s.accept (.readFrame ids)).startHunt ids).runRx
  else .next ((s.accept (.readFrame ids)).raise .invalidArgument .none)

end Sys2Proof.Machine
end

