-- ==== Sys2Proof/Machine/Dispatch.lean ====
section
/-! DEFINITION. The meaning of every operation, one arm each. -/
namespace Sys2Proof.Machine

def exec (i : Instr) (s : State) : Host.Outcome State Fault Refusal :=
  match i with
  | .enc16 v => Sys2Proof.Machine.execEnc16 v s
  | .dec16 h l => Sys2Proof.Machine.execDec16 h l s
  | .readFrame ids => Sys2Proof.Machine.execReadFrame ids s
  | .getBit id mask => Sys2Proof.Machine.execGetBit id mask s
  | .getU8 id => Sys2Proof.Machine.execGetU8 id s
  | .getS16 id => Sys2Proof.Machine.execGetS16 id s
  | .getU16 id => Sys2Proof.Machine.execGetU16 id s
  | .modePassive => Sys2Proof.Machine.execModePassive s
  | .setBaud code => Sys2Proof.Machine.execSetBaud code s
  | .modeSafe => Sys2Proof.Machine.execModeSafe s
  | .modeFull => Sys2Proof.Machine.execModeFull s
  | .drive velocity radius => Sys2Proof.Machine.execDrive velocity radius s
  | .lsdFull bits => Sys2Proof.Machine.execLsdFull bits s
  | .leds flags color intensity => Sys2Proof.Machine.execLeds flags color intensity s
  | .storeSong song notes => Sys2Proof.Machine.execStoreSong song notes s
  | .playSong song => Sys2Proof.Machine.execPlaySong song s
  | .readPacket id => Sys2Proof.Machine.execReadPacket id s
  | .lsdPwm d2 d1 d0 => Sys2Proof.Machine.execLsdPwm d2 d1 d0 s
  | .driveDirect right left => Sys2Proof.Machine.execDriveDirect right left s
  | .drivePwm right left => Sys2Proof.Machine.execDrivePwm right left s
  | .digitalOut bits => Sys2Proof.Machine.execDigitalOut bits s
  | .streamStart ids => Sys2Proof.Machine.execStreamStart ids s
  | .readPacketList ids => Sys2Proof.Machine.execReadPacketList ids s
  | .streamPauseResume flag => Sys2Proof.Machine.execStreamPauseResume flag s
  | .sendIr value => Sys2Proof.Machine.execSendIr value s
  | .storeScript script => Sys2Proof.Machine.execStoreScript script s
  | .runScript => Sys2Proof.Machine.execRunScript s
  | .readScript => Sys2Proof.Machine.execReadScript s
  | .waitTime time => Sys2Proof.Machine.execWaitTime time s
  | .waitDistance distance => Sys2Proof.Machine.execWaitDistance distance s
  | .waitAngle angle => Sys2Proof.Machine.execWaitAngle angle s
  | .waitEvent event => Sys2Proof.Machine.execWaitEvent event s
  | .modeOff => Sys2Proof.Machine.execModeOff s

end Sys2Proof.Machine
end

