-- ==== Sys2Proof/Machine/Step.lean ====
section
/-! DEFINITION. One step of the block: an idle block accepts the host's next record and executes its operation to its
end, or to the point where it waits for RX; a waiting block goes on with what RX holds. -/
namespace Sys2Proof.Machine

/-- R8, R18, R59, R85: a record is accepted only when PHASE is IDLE; with no record the block stays idle. An instance
whose configuration is not well formed does not leave reset (R260). -/
def step (s : State) : Host.Outcome State Fault Refusal :=
  if s.cfg.wf then
    if s.phase = .idle then
      match s.takeRecord with
      | .waiting => .next s
      | .run i s' => exec i s'
      | .unknown sel s' => .next (unknownSelector sel s')
      | .malformed e => .refused (.malformedRecord e)
    else resume s
  else .refused .illFormedInstance

/-- The record whose first bits are `w` placed at the head of the CMD port, with the block idle, so that the next step
accepts exactly it. -/
def State.withFetchWord (s : State) (nbits w : Nat) : State :=
  { s with phase := .idle, host := tableRecord nbits w :: s.host }

end Sys2Proof.Machine
end

