-- ==== Sys2Proof/Machine/Pseudo.lean ====
section
/-! DEFINITION. The pseudo-operations (R90): names of the source that stand for one of the operations. -/
namespace Sys2Proof.Machine

/-- R115: `setMode(target)`. -/
def setMode : OperatingMode → Instr
  | .passive => .modePassive
  | .safe => .modeSafe
  | .full => .modeFull
  | .off => .modeOff

/-- R152: `STREAM_PAUSE`. -/
def streamPause : Instr := .streamPauseResume 0#8

/-- R152: `STREAM_RESUME`. -/
def streamResume : Instr := .streamPauseResume 1#8

/-- R165: `READ_FRAME_SREQ` is `READ_FRAME` with the remembered StreamRequest. -/
def readFrameSreq (s : State) : Instr := .readFrame s.sreq

/-- R131: the largest packet id that is also its packet's ordinal. -/
abbrev lastOrdinalId : Nat := 58

/-- R131: the readSensorPacket family, which takes a packet's ordinal for its id. It is READ_PACKET for the ids 0 to 58,
where the two are equal, and has no member for any other id, 100, 101, 106 and 107 among them. -/
def readSensorPacket (id : Byte) : Option Instr := if id.toNat ≤ lastOrdinalId then some (.readPacket id) else none

end Sys2Proof.Machine
end

