-- ==== Sys2Proof/Safety.lean ====
section
/-! DEFINITION. What claims about the block speak of: the invariant of the machine, and the parts of a state that an
operation must leave alone. -/
namespace Sys2Proof

/-- R44: the operations that commit to the cache. -/
def Instr.readsSensors : Instr → Bool
  | .readPacket _ | .readPacketList _ | .readFrame _ => true
  | _ => false

/-- R11: the operations that write MODE. -/
def Instr.setsMode : Instr → Bool
  | .modePassive | .modeSafe | .modeFull | .modeOff => true
  | _ => false

/-- R12: the operation that writes SREQ. -/
def Instr.setsSreq : Instr → Bool
  | .streamStart _ => true
  | _ => false

/-- R43: the operations that read the cache. -/
def Instr.isAccessor : Instr → Bool
  | .getBit _ _ | .getU8 _ | .getS16 _ | .getU16 _ => true
  | _ => false

/-- R71, R92: a wire operation, whose selector has bit 7 set. -/
def Instr.isWire (i : Instr) : Bool := i.sel.msb

end Sys2Proof

namespace Sys2Proof.Machine

/-- R18, R23: between two steps the block is idle or waits for an RX byte. -/
def State.atRest (s : State) : Prop := s.phase = .idle ∨ s.phase.waits = true

/-- R120, R121: `id` is an atomic packet of the catalogue. -/
def isAtom (c : Catalogue) (id : Byte) : Prop := inCatalogue c id = true ∧ isComposite c id = false

/-- R41, R42: every valid entry is that of an atomic packet of the catalogue and holds as many bytes as it has. -/
def CacheFits (c : Catalogue) (m : Memory) : Prop :=
  m.wf ∧ ∀ e ∈ m, isAtom c (BitVec.ofNat 8 e.1) ∧ e.2.length = byteLength c (BitVec.ofNat 8 e.1)

/-- R12, R151: at most 255 remembered ids, each of the catalogue. -/
def SreqFits (c : Catalogue) (ids : List Byte) : Prop := ids.length ≤ 255 ∧ ids.all (inCatalogue c) = true

/-- R153: the registers a frame read sets up agree with the ids it was given. -/
def State.frameSetUp (s : State) : Prop :=
  s.cmd.idList.all (inCatalogue s.cfg.catalogue) = true ∧
  s.work.alist = expandList s.cfg.catalogue s.cmd.idList ∧
  s.work.total = totalLen s.cfg.catalogue s.cmd.idList

/-- R19, R138, R153: what the working registers hold while the block waits in a phase: how many bytes are staged and
how many of the current packet are still to come. -/
def State.workFits (s : State) : Prop :=
  match s.phase with
  | .resp =>
    (∀ a ∈ s.work.alist, isAtom s.cfg.catalogue a) ∧ s.work.idx < s.work.alist.length ∧
    1 ≤ s.work.cnt ∧ s.work.cnt ≤ lenAt s.cfg.catalogue s.work.alist s.work.idx ∧
    s.work.stage.length + s.work.cnt = sumLen s.cfg.catalogue (s.work.alist.take (s.work.idx + 1))
  | .hunt => s.frameSetUp ∧ s.work.disc < s.work.total
  | .flen => s.frameSetUp
  | .pid =>
    s.frameSetUp ∧ s.work.idx < s.frameIds.length ∧
    s.work.stage.length = totalLen s.cfg.catalogue (s.frameIds.take s.work.idx)
  | .pdata =>
    s.frameSetUp ∧ s.work.idx < s.frameIds.length ∧ 1 ≤ s.work.cnt ∧
    s.work.cnt ≤ totalLen s.cfg.catalogue [s.frameIds.getD s.work.idx 0#8] ∧
    s.work.stage.length + s.work.cnt = totalLen s.cfg.catalogue (s.frameIds.take (s.work.idx + 1))
  | .fchk => s.frameSetUp ∧ s.work.stage.length = s.work.total
  | .idle | .check | .emit | .commit => True

/-- The invariant of the block: a well-formed configuration (R260), at rest (R18), a cache that fits the catalogue
(R41, R42), a StreamRequest of known ids (R12), and working registers that agree with the phase (R19). -/
def State.Inv (s : State) : Prop :=
  s.cfg.wf = true ∧ s.atRest ∧ CacheFits s.cfg.catalogue s.cache ∧ SreqFits s.cfg.catalogue s.sreq ∧ s.workFits

/-- The parts of the state that reading from RX leaves alone: all but the cache, PHASE, RES, the working registers and
RX itself. -/
def State.sameBeyondRx (s t : State) : Prop :=
  t.cfg = s.cfg ∧ t.mode = s.mode ∧ t.sreq = s.sreq ∧ t.cmd = s.cmd ∧ t.host = s.host ∧
  t.txFates = s.txFates ∧ t.txLog = s.txLog

/-- R231: the state after an operation that ended with OK and `data`, with nothing else changed: CMD holds the
operation, RES its result, PHASE is IDLE. -/
def State.ended (i : Instr) (data : ResData) (s : State) : State :=
  { s with cmd := ⟨i.sel, i.operands⟩, phase := .idle, res := ⟨.ok, .none, data⟩ }

/-- R239, R240: the state after an operation that ended with an error, with nothing else changed. -/
def State.failed (i : Instr) (status : Status) (sub : SubCause) (s : State) : State :=
  { s with cmd := ⟨i.sel, i.operands⟩, phase := .idle, res := ⟨status, sub, .none⟩ }

/-- The outcome is a next state, and it is `t` but for the working registers: what they hold after an operation is not
observable, and the spec leaves it open (R19; the model's choice is log entry 10). -/
def EndsIn (r : Result) (t : State) : Prop := ∃ w : Work, r = .next { t with work := w }

/-- R22: the next `n` TX writes succeed. -/
abbrev State.writesOk (s : State) (n : Nat) : Prop := ∀ f ∈ s.txFates.take n, f = true

/-- R22: TX has taken the bytes `bs`, each with one write. -/
def State.sent (bs : List Byte) (s : State) : State :=
  { s with txLog := s.txLog ++ bs, txFates := s.txFates.drop bs.length }

/-- R23: bytes as RX items. -/
def rxBytes (bs : List Byte) : List RxItem := bs.map RxItem.byte

/-- R232: the operand checks of each operation, all of them: where this is false the operation ends with
`INVALID_ARGUMENT`. -/
def State.accepts (s : State) : Instr → Bool
  | .setBaud code => decide (code.toNat ≤ 11)
  | .storeSong _ notes => decide (notes.length ≤ 16)
  | .storeScript script => decide (script.length ≤ 100)
  | .modeOff => s.cfg.pver != .v1
  | .readPacket id => inCatalogue s.cfg.catalogue id
  | .readPacketList ids | .streamStart ids | .readFrame ids => ids.all (inCatalogue s.cfg.catalogue)
  | .getBit id mask =>
    isSingleBit mask && inCatalogue s.cfg.catalogue id && !isComposite s.cfg.catalogue id &&
      byteLength s.cfg.catalogue id == 1
  | .getU8 id =>
    inCatalogue s.cfg.catalogue id && !isComposite s.cfg.catalogue id && byteLength s.cfg.catalogue id == 1
  | .getS16 id | .getU16 id =>
    inCatalogue s.cfg.catalogue id && !isComposite s.cfg.catalogue id && byteLength s.cfg.catalogue id == 2
  | .enc16 _ | .dec16 _ _ | .modePassive | .modeSafe | .modeFull | .drive _ _ | .lsdFull _ | .leds _ _ _
  | .playSong _ | .lsdPwm _ _ _ | .driveDirect _ _ | .drivePwm _ _ | .digitalOut _ | .streamPauseResume _
  | .sendIr _ | .runScript | .readScript | .waitTime _ | .waitDistance _ | .waitAngle _ | .waitEvent _ => true

/-- R83: the sum of bytes modulo 256. -/
def byteSum (bs : List Byte) : Byte := bs.foldl (fun chk b => chk + b) 0#8

/-- R157, R158: the ids that a frame for the requested list `ids` carries an id byte for. -/
def frameIdsOf (c : Config) (ids : List Byte) : List Byte :=
  match c.frameIdMode with
  | .atomic => expandList c.catalogue ids
  | .requested => ids

/-- R81: the ids of a frame, each followed by its data bytes, which are taken from `data` in order. -/
def frameBody (c : Catalogue) : List Byte → List Byte → List Byte
  | [], _ => []
  | id :: ids, data => id :: (data.take (totalLen c [id]) ++ frameBody c ids (data.drop (totalLen c [id])))

/-- R81, R82: the stream frame for the requested list `ids` with the data bytes `data`, up to its checksum byte. -/
def frameHead (c : Config) (ids data : List Byte) : List Byte :=
  header :: BitVec.ofNat 8 (totalLen c.catalogue ids + (frameIdsOf c ids).length) ::
    frameBody c.catalogue (frameIdsOf c ids) data

/-- R81, R155: `bs` is garbage that a hunt for `ids` survives (fewer bytes than the budget, no header among them), then
a beginning of a stream frame for `ids`, in which at least the checksum byte is missing. -/
def ShortOfFrame (c : Config) (ids bs : List Byte) : Prop :=
  ∃ (garbage data part missing : List Byte) (ck : Byte),
    garbage.length < totalLen c.catalogue ids ∧ header ∉ garbage ∧ data.length = totalLen c.catalogue ids ∧
    totalLen c.catalogue ids + (frameIdsOf c ids).length ≤ 255 ∧
    frameHead c ids data ++ [ck] = part ++ missing ∧ missing ≠ [] ∧ bs = garbage ++ part

/-- R11, R12, R17: what operation `i` leaves behind in `t` that is its own doing: MODE, SREQ and RES count only where
`i` has written them, MODE and SREQ on OK and RES at its end; elsewhere a fixed value stands for them. -/
def State.effectOf (i : Instr) (t : State) : State :=
  { t with
    mode := if i.setsMode = true ∧ t.res.status = .ok then t.mode else .off
    sreq := if i.setsSreq = true ∧ t.res.status = .ok then t.sreq else []
    res := if t.phase = .idle then t.res else ⟨.ok, .none, .none⟩ }

/-- The outcome with `f` applied to its next state. -/
def mapNext (f : State → State) : Result → Result
  | .next s => .next (f s)
  | .fault r => .fault r
  | .refused r => .refused r

end Sys2Proof.Machine
end

