-- ==== Sys2Proof/Certificates/Slice0/Obligations.lean ====
section
/-! DEFINITION. The statements about the block. Equations of next states say the whole frame: every field that the
right side does not name is unchanged. -/
open Sys2Proof Sys2Proof.Machine

/-! ### Records, decoding, the step -/

/-- Decode and encode agree on every well-formed operation, whatever bytes follow its record. The byte layout is the
model's own (log entry 1). -/
def Obligations.DecodeOfEncodeIsTheOperation : Prop :=
  ∀ (w : Nat) (i : Instr) (tail : List Byte), 1 ≤ w → i.wf w = true → decode w (encode w i ++ tail) = .ok (i, tail)

/-- What decodes is the record of the operation it decodes to, and that operation is well formed: no record has a
second spelling. The byte layout is the model's own (log entry 1). -/
def Obligations.DecodedBytesAreTheEncoding : Prop :=
  ∀ (w : Nat) (bytes rest : List Byte) (i : Instr), 1 ≤ w → decode w bytes = .ok (i, rest) →
    i.wf w = true ∧ bytes = encode w i ++ rest

/-- A few records, written out from the operation map (R80) and the byte layout of log entry 1. -/
def Obligations.RecordsWrittenOutDecode : Prop :=
  decode 32 [0x89#8, 0xFF#8, 0xFF#8, 0xFF#8, 0x38#8, 0#8, 0#8, 0x01#8, 0xF4#8] = .ok (.drive (-200) 500, []) ∧
  decode 32 [0x95#8, 2#8, 19#8, 20#8] = .ok (.readPacketList [19#8, 20#8], []) ∧
  decode 32 [0x8C#8, 0#8, 2#8, 60#8, 32#8, 62#8, 32#8] = .ok (.storeSong 0#8 [(60#8, 32#8), (62#8, 32#8)], []) ∧
  decode 32 [0x20#8, 18#8, 4#8] = .ok (.getBit 18#8 4#8, []) ∧
  decode 32 [0xAD#8] = .ok (.modeOff, []) ∧
  decode 32 [0x10#8, 2#8, 29#8, 13#8] = .ok (.readFrame [29#8, 13#8], [])

/-- A step of an idle block takes the host's first record (R8) and is the execution of the operation it decodes to. The
rest is the model's choice: that one step is the whole operation, to its end or its wait, is log entry 15 (DEDUCED);
that the bytes `rest'` after the last operand are ignored is log entry 1 (DESIGN CHOICE). -/
def Obligations.StepRunsTheDecodedOperation : Prop :=
  ∀ (s : State) (record rest' : List Byte) (rest : List (List Byte)) (i : Instr),
    s.cfg.wf = true → s.phase = .idle → s.host = record :: rest → decode s.cfg.valueW record = .ok (i, rest') →
    step s = exec i { s with host := rest }

/-- R85: a record whose selector is none of the thirty-three ends with `INVALID_ARGUMENT`, sends nothing and changes
nothing but the latches; so does `MODE_OFF` under V1. That SEL is a record's first byte is log entry 1. -/
def Obligations.UnknownSelectorIsInvalidArgument : Prop :=
  (∀ (s : State) (sel : Byte) (r : List Byte) (rest : List (List Byte)),
    s.cfg.wf = true → s.phase = .idle → s.host = (sel :: r) :: rest →
    sel.toNat ∉ [1, 2, 16, 32, 33, 34, 35, 128, 129, 131, 132, 137, 138, 139, 140, 141, 142, 144, 145, 146, 147, 148,
      149, 150, 151, 152, 153, 154, 155, 156, 157, 158, 173] →
    ∃ ops : List Operand, EndsIn (step s)
      { s with host := rest, cmd := ⟨sel, ops⟩, res := ⟨.invalidArgument, .none, .none⟩ }) ∧
  ∀ s : State, s.cfg.pver = .v1 → EndsIn (exec .modeOff s) (s.failed .modeOff .invalidArgument .none)

/-- R263: an idle block with no record waits. -/
def Obligations.IdleBlockWaitsForARecord : Prop :=
  ∀ s : State, s.cfg.wf = true → s.phase = .idle → s.host = [] → step s = .next s

/-- R8, R59: a block that is not idle accepts no record: a step leaves the host's records and CMD as they are. -/
def Obligations.BusyBlockAcceptsNothing : Prop :=
  ∀ s t : State, s.phase ≠ .idle → step s = .next t → t.host = s.host ∧ t.cmd = s.cmd

/-- R260, U12: an instance whose configuration is not well formed does not run. -/
def Obligations.IllFormedInstanceDoesNotRun : Prop :=
  ∀ s : State, catalogueWf s.cfg.catalogue = false → step s = .refused .illFormedInstance

/-! ### Codec -/

/-- R100, R101, R102: the three codec functions, as the rules give them. -/
def Obligations.CodecFunctionsAsDefined : Prop :=
  (∀ v : Int, 0 ≤ v → v ≤ 32767 →
    enc16 v = some (BitVec.ofNat 8 (v.toNat / 256), BitVec.ofNat 8 (v.toNat % 256))) ∧
  (∀ v : Int, -32768 ≤ v → v < 0 →
    enc16 v = some (BitVec.ofNat 8 ((v + 65536).toNat / 256), BitVec.ofNat 8 ((v + 65536).toNat % 256))) ∧
  (∀ v : Int, v < -32768 ∨ 32767 < v → enc16 v = none) ∧
  (∀ h l : Byte, 256 * h.toNat + l.toNat < 32768 → dec16 h l = 256 * h.toNat + l.toNat) ∧
  (∀ h l : Byte, 32768 ≤ 256 * h.toNat + l.toNat → dec16 h l = 256 * (h.toNat : Int) + l.toNat - 65536) ∧
  (∀ h l : Byte, -32768 ≤ dec16 h l ∧ dec16 h l ≤ 32767) ∧
  (∀ h l : Byte, decu16 h l = 256 * h.toNat + l.toNat ∧ decu16 h l ≤ 65535)

/-- R105, whose converse half is the spec's own inference: the codec's round trip, both ways; so the in-range values
and the byte pairs correspond one to one. -/
def Obligations.CodecRoundTrip : Prop :=
  (∀ v : Int, -32768 ≤ v → v ≤ 32767 → ∃ h l : Byte, enc16 v = some (h, l) ∧ dec16 h l = v) ∧
  (∀ h l : Byte, enc16 (dec16 h l) = some (h, l)) ∧
  (∀ v w : Int, -32768 ≤ v → v ≤ 32767 → enc16 v = enc16 w → v = w)

/-- R103, R104: the selectors of the two operations; ENC16 of a value in range and DEC16 end with their result and
change nothing else. -/
def Obligations.CodecOperationsComplete : Prop :=
  (∀ (v : Int) (h l : Byte), (Instr.enc16 v).sel = 1#8 ∧ (Instr.dec16 h l).sel = 2#8) ∧
  (∀ (s : State) (v : Int), -32768 ≤ v → v ≤ 32767 →
    ∃ h l : Byte, enc16 v = some (h, l) ∧ EndsIn (exec (.enc16 v) s) (s.ended (.enc16 v) (.pair h l))) ∧
  ∀ (s : State) (h l : Byte), EndsIn (exec (.dec16 h l) s) (s.ended (.dec16 h l) (.int (dec16 h l)))

/-- R103, R180, R237: an s16 operand outside -32768 to 32767 has no outcome, in ENC16 and in every wire operation
that marshals one, whichever of its operands it is. -/
def Obligations.OutOfRangeSignedOperandIsRefused : Prop :=
  ∀ (s : State) (v w : Int), (v < -32768 ∨ 32767 < v) →
    exec (.enc16 v) s = .refused .s16OutOfRange ∧
    exec (.drive v w) s = .refused .s16OutOfRange ∧ exec (.drive w v) s = .refused .s16OutOfRange ∧
    exec (.driveDirect v w) s = .refused .s16OutOfRange ∧ exec (.driveDirect w v) s = .refused .s16OutOfRange ∧
    exec (.drivePwm v w) s = .refused .s16OutOfRange ∧ exec (.drivePwm w v) s = .refused .s16OutOfRange ∧
    exec (.waitDistance v) s = .refused .s16OutOfRange ∧ exec (.waitAngle v) s = .refused .s16OutOfRange

/-! ### Mode operations -/

/-- R111, R112, R113: the selectors of the three operations; whatever MODE held, an operation whose byte the
transport takes sends that one byte and records the mode; if the transport fails it, nothing is sent and MODE is
unchanged. -/
def Obligations.ModeOperationsSendAndRecord : Prop :=
  (Instr.modePassive.sel = 128#8 ∧ Instr.modeSafe.sel = 131#8 ∧ Instr.modeFull.sel = 132#8) ∧
  (∀ s : State, s.cfg.cmdtab = defaultCmdTab → s.writesOk 1 →
    EndsIn (exec .modePassive s) ({ s.sent [128#8] with mode := .passive }.ended .modePassive .none) ∧
    EndsIn (exec .modeSafe s) ({ s.sent [131#8] with mode := .safe }.ended .modeSafe .none) ∧
    EndsIn (exec .modeFull s) ({ s.sent [132#8] with mode := .full }.ended .modeFull .none)) ∧
  ∀ (s : State) (rest : List Bool), s.cfg.cmdtab = defaultCmdTab → s.txFates = false :: rest →
    EndsIn (exec .modePassive s) ({ s with txFates := rest }.failed .modePassive .transportFailure .none) ∧
    EndsIn (exec .modeSafe s) ({ s with txFates := rest }.failed .modeSafe .transportFailure .none) ∧
    EndsIn (exec .modeFull s) ({ s with txFates := rest }.failed .modeFull .transportFailure .none)

/-- R114: MODE_OFF sends 173 and records Off under V2; if the transport fails the byte, nothing is sent and MODE is
unchanged; under V1 it is refused with nothing sent. -/
def Obligations.ModeOffDependsOnTheVersion : Prop :=
  Instr.modeOff.sel = 173#8 ∧
  (∀ s : State, s.cfg.cmdtab = defaultCmdTab → s.cfg.pver = .v2 → s.writesOk 1 →
    EndsIn (exec .modeOff s) ({ s.sent [173#8] with mode := .off }.ended .modeOff .none)) ∧
  (∀ (s : State) (rest : List Bool), s.cfg.cmdtab = defaultCmdTab → s.cfg.pver = .v2 → s.txFates = false :: rest →
    EndsIn (exec .modeOff s) ({ s with txFates := rest }.failed .modeOff .transportFailure .none)) ∧
  ∀ s : State, s.cfg.pver = .v1 → EndsIn (exec .modeOff s) (s.failed .modeOff .invalidArgument .none)

/-! ### One-shot commands. The layouts after the opcode byte are those of the default command table, most of them the
spec's from general knowledge (R199, log entry 7). -/

/-- The commands with one raw payload byte. -/
def Obligations.OneByteCommandsComplete : Prop :=
  ∀ (s : State) (b : Byte), s.cfg.cmdtab = defaultCmdTab → s.writesOk 2 →
    (∀ code : BitVec 4, code.toNat ≤ 11 →
      EndsIn (exec (.setBaud code) s) ((s.sent [129#8, BitVec.ofNat 8 code.toNat]).ended (.setBaud code) .none)) ∧
    EndsIn (exec (.lsdFull b) s) ((s.sent [138#8, b]).ended (.lsdFull b) .none) ∧
    EndsIn (exec (.playSong b) s) ((s.sent [141#8, b]).ended (.playSong b) .none) ∧
    EndsIn (exec (.digitalOut b) s) ((s.sent [147#8, b]).ended (.digitalOut b) .none) ∧
    EndsIn (exec (.streamPauseResume b) s) ((s.sent [150#8, b]).ended (.streamPauseResume b) .none) ∧
    EndsIn (exec (.sendIr b) s) ((s.sent [151#8, b]).ended (.sendIr b) .none) ∧
    EndsIn (exec (.waitTime b) s) ((s.sent [155#8, b]).ended (.waitTime b) .none) ∧
    EndsIn (exec (.waitEvent b) s) ((s.sent [158#8, b]).ended (.waitEvent b) .none)

/-- The commands with no payload, and those with three raw payload bytes. -/
def Obligations.BareAndThreeByteCommandsComplete : Prop :=
  (∀ s : State, s.cfg.cmdtab = defaultCmdTab → s.writesOk 1 →
    EndsIn (exec .runScript s) ((s.sent [153#8]).ended .runScript .none) ∧
    EndsIn (exec .readScript s) ((s.sent [154#8]).ended .readScript .none)) ∧
  ∀ (s : State) (a b c : Byte), s.cfg.cmdtab = defaultCmdTab → s.writesOk 4 →
    EndsIn (exec (.leds a b c) s) ((s.sent [139#8, a, b, c]).ended (.leds a b c) .none) ∧
    EndsIn (exec (.lsdPwm a b c) s) ((s.sent [144#8, a, b, c]).ended (.lsdPwm a b c) .none)

/-- The commands with signed fields put them on the wire through the codec, high byte first. -/
def Obligations.SignedFieldCommandsComplete : Prop :=
  (∀ (s : State) (x y : Int) (xh xl yh yl : Byte), s.cfg.cmdtab = defaultCmdTab → s.writesOk 5 →
    enc16 x = some (xh, xl) → enc16 y = some (yh, yl) →
    EndsIn (exec (.drive x y) s) ((s.sent [137#8, xh, xl, yh, yl]).ended (.drive x y) .none) ∧
    EndsIn (exec (.driveDirect x y) s) ((s.sent [145#8, xh, xl, yh, yl]).ended (.driveDirect x y) .none) ∧
    EndsIn (exec (.drivePwm x y) s) ((s.sent [146#8, xh, xl, yh, yl]).ended (.drivePwm x y) .none)) ∧
  ∀ (s : State) (x : Int) (xh xl : Byte), s.cfg.cmdtab = defaultCmdTab → s.writesOk 3 → enc16 x = some (xh, xl) →
    EndsIn (exec (.waitDistance x) s) ((s.sent [156#8, xh, xl]).ended (.waitDistance x) .none) ∧
    EndsIn (exec (.waitAngle x) s) ((s.sent [157#8, xh, xl]).ended (.waitAngle x) .none)

/-- STORE_SONG of at most sixteen notes and STORE_SCRIPT of at most one hundred bytes send their counted payload. -/
def Obligations.StoreCommandsComplete : Prop :=
  (∀ (s : State) (song : Byte) (notes : List (Byte × Byte)), s.cfg.cmdtab = defaultCmdTab → notes.length ≤ 16 →
    s.writesOk (3 + 2 * notes.length) →
    EndsIn (exec (.storeSong song notes) s)
      ((s.sent ([140#8, song, BitVec.ofNat 8 notes.length] ++ notes.flatMap (fun p => [p.1, p.2]))).ended
        (.storeSong song notes) .none)) ∧
  ∀ (s : State) (script : List Byte), s.cfg.cmdtab = defaultCmdTab → script.length ≤ 100 →
    s.writesOk (2 + script.length) →
    EndsIn (exec (.storeScript script) s)
      ((s.sent ([152#8, BitVec.ofNat 8 script.length] ++ script)).ended (.storeScript script) .none)

/-! ### What ends an operation early -/

/-- R232, R238, R239: an operation whose operand check fails ends with `INVALID_ARGUMENT`: nothing is sent, nothing
is read, no register or cache entry changes. -/
def Obligations.RefusedOperandsCostNothing : Prop :=
  ∀ (i : Instr) (s : State), s.accepts i = false → EndsIn (exec i s) (s.failed i .invalidArgument .none)

/-- R232: the list of causes is complete: an operation whose operands are accepted does not end with
`INVALID_ARGUMENT`. -/
def Obligations.AcceptedOperandsAreNotInvalid : Prop :=
  ∀ (i : Instr) (s t : State), s.accepts i = true → exec i s = .next t → t.phase = .idle →
    t.res.status ≠ .invalidArgument

/-- R22, R180, R233: when the transport takes `k` bytes of a command and fails the next one, the operation ends with
`TRANSPORT_FAILURE`: those `k` bytes stay sent, nothing more is sent or read, and nothing else changes. -/
def Obligations.FailedWriteLeavesAPrefixSent : Prop :=
  ∀ (i : Instr) (s : State) (bs : List Byte) (k : Nat) (rest : List Bool),
    i.isWire = true → s.accepts i = true → i.operands.all Operand.inRange = true →
    commandBytes s.cfg.cmdtab i = some bs → k < bs.length → s.txFates = List.replicate k true ++ false :: rest →
    EndsIn (exec i s)
      ({ s with txLog := s.txLog ++ bs.take k, txFates := rest }.failed i .transportFailure .none)

/-- R240: after a step that does not end with OK, or that leaves its operation waiting, MODE, SREQ and every cache
entry are as before. -/
def Obligations.ErrorsLeaveRegistersAndCache : Prop :=
  ∀ s t : State, step s = .next t → t.res.status ≠ .ok ∨ t.phase ≠ .idle →
    t.mode = s.mode ∧ t.sreq = s.sreq ∧ t.cache = s.cache

/-- R73, R230, R232 to R236: which operations each of the five error statuses comes from (`INVALID_ARGUMENT` from those
whose operands are not accepted, and from no other), and that only `FRAME_INTEGRITY` has a sub-cause. -/
def Obligations.StatusesByOperation : Prop :=
  ∀ (i : Instr) (s t : State), exec i s = .next t → t.phase = .idle →
    (t.res.status = .invalidArgument ↔ s.accepts i = false) ∧
    (t.res.status = .protocolDesync → ∃ ids, i = .readFrame ids) ∧
    (t.res.status = .frameIntegrity → ∃ ids, i = .readFrame ids) ∧
    (t.res.status = .notPopulated → i.isAccessor = true) ∧
    (t.res.status = .transportFailure → i.isWire = true ∨ ∃ ids, i = .readFrame ids) ∧
    (t.res.sub ≠ .none ↔ t.res.status = .frameIntegrity) ∧
    (t.res.status ≠ .ok → t.res.data = .none)

/-! ### Catalogue -/

/-- R124: an atomic packet expands to itself, a group to the expansions of its members in ascending order, and every
element of an expansion is an atomic packet of the catalogue; for every well-formed catalogue, however deep it
nests. -/
def Obligations.ExpansionFollowsTheRanges : Prop :=
  ∀ (c : Catalogue) (id : Byte) (d : Descriptor), catalogueWf c = true → descriptor c id.toNat = some d →
    (d.groupRange = none → expand c id = [id]) ∧
    (∀ first last : Nat, d.groupRange = some (first, last) →
      expand c id = (rangeIds first last).flatMap (fun m => expand c (BitVec.ofNat 8 m))) ∧
    ∀ a ∈ expand c id, isAtom c a

/-- R130, S2: a packet is as long as the atomic packets it expands to; for every well-formed catalogue. -/
def Obligations.PacketLengthIsTheSumOfItsAtoms : Prop :=
  ∀ (c : Catalogue) (id : Byte), catalogueWf c = true → inCatalogue c id = true →
    ((expand c id).map (byteLength c)).sum = byteLength c id

/-- R127, R128: both default catalogues are well formed, the groups have the lengths the source gives, and ids are
known under the versions the spec gives. -/
def Obligations.DefaultCataloguesAreWellFormed : Prop :=
  catalogueWf (defaultCatalogue .v1) = true ∧ catalogueWf (defaultCatalogue .v2) = true ∧
  (∀ p : ProtocolVersion, [0#8, 1#8, 2#8, 3#8, 4#8, 5#8, 6#8].map (byteLength (defaultCatalogue p)) =
    [26, 10, 6, 10, 14, 12, 52]) ∧
  (∀ p : ProtocolVersion, expand (defaultCatalogue p) 2#8 = [17#8, 18#8, 19#8, 20#8]) ∧
  inCatalogue (defaultCatalogue .v1) 43#8 = false ∧ inCatalogue (defaultCatalogue .v2) 43#8 = true ∧
  inCatalogue (defaultCatalogue .v1) 100#8 = false ∧ inCatalogue (defaultCatalogue .v2) 100#8 = true ∧
  ∀ p : ProtocolVersion, inCatalogue (defaultCatalogue p) 59#8 = false

/-- R7: with a default catalogue the expected total of any list of 255 catalogue ids is at most 20400, so 15 bits
hold it. -/
def Obligations.DefaultTotalsFitFifteenBits : Prop :=
  ∀ (p : ProtocolVersion) (ids : List Byte), ids.length ≤ 255 → totalLen (defaultCatalogue p) ids ≤ 20400

/-! ### Sensor cache and single-shot reader -/

/-- R46: a commit leaves in each entry it writes the bytes of the last occurrence of its id, and leaves every other
entry alone. -/
def Obligations.CommitKeepsTheLastOccurrence : Prop :=
  ∀ (c : Catalogue) (atoms stage : List Byte) (m : Memory),
    (∀ (k : Nat) (a : Byte), atoms[k]? = some a → a ∉ atoms.drop (k + 1) →
      (Memory.commit c atoms stage m).read a.toNat =
        some ((stage.drop (sumLen c (atoms.take k))).take (byteLength c a))) ∧
    ∀ id : Byte, id ∉ atoms → (Memory.commit c atoms stage m).read id.toNat = m.read id.toNat

/-- R136: READ_PACKET sends its request, takes the next bytes of RX, as many as the packet has, returns them and
commits them, and leaves the rest of RX. -/
def Obligations.ReadPacketCompletes : Prop :=
  ∀ (s : State) (id : Byte) (bs : List Byte) (rest : List RxItem), s.cfg.wf = true → s.cfg.cmdtab = defaultCmdTab →
    inCatalogue s.cfg.catalogue id = true → s.writesOk 2 → s.rx = rxBytes bs ++ rest →
    bs.length = byteLength s.cfg.catalogue id →
    EndsIn (exec (.readPacket id) s) ({ s.sent [142#8, id] with
        rx := rest
        cache := Memory.commit s.cfg.catalogue (expand s.cfg.catalogue id) bs s.cache }.ended
          (.readPacket id) (.bytes bs))

/-- R137: READ_PACKET_LIST does the same for the concatenation of its packets, in the caller's order; the empty list
reads nothing. -/
def Obligations.ReadPacketListCompletes : Prop :=
  ∀ (s : State) (ids bs : List Byte) (rest : List RxItem), s.cfg.wf = true → s.cfg.cmdtab = defaultCmdTab →
    ids.all (inCatalogue s.cfg.catalogue) = true → s.writesOk (2 + ids.length) → s.rx = rxBytes bs ++ rest →
    bs.length = totalLen s.cfg.catalogue ids →
    EndsIn (exec (.readPacketList ids) s) ({ s.sent ([149#8, BitVec.ofNat 8 ids.length] ++ ids) with
        rx := rest
        cache := Memory.commit s.cfg.catalogue (expandList s.cfg.catalogue ids) bs s.cache }.ended
          (.readPacketList ids) (.bytes bs))

/-- R140, in part the spec's own inference: on the same RX, reading two packets in one list gives the bytes, the
cache and the rest of RX of reading one and then the other, and reading the list of a group's members gives those of
reading the group; only the bytes sent (and the operation in CMD) differ. -/
def Obligations.ListReadsAgreeWithSingleReads : Prop :=
  (∀ (s t u : State) (a b : Byte) (as bs : List Byte), s.cfg.wf = true → s.cfg.cmdtab = defaultCmdTab →
    s.writesOk 4 →
    exec (.readPacket a) s = .next t → t.phase = .idle → t.res = ⟨.ok, .none, .bytes as⟩ →
    exec (.readPacket b) t = .next u → u.phase = .idle → u.res = ⟨.ok, .none, .bytes bs⟩ →
    u.txLog = s.txLog ++ [142#8, a, 142#8, b] ∧
    EndsIn (exec (.readPacketList [a, b]) s)
      ({ u with txLog := s.txLog ++ [149#8, 2#8, a, b] }.ended (.readPacketList [a, b]) (.bytes (as ++ bs)))) ∧
  ∀ (s t : State) (g : Byte) (d : Descriptor) (first last : Nat), s.cfg.wf = true → s.cfg.cmdtab = defaultCmdTab →
    descriptor s.cfg.catalogue g.toNat = some d → d.groupRange = some (first, last) →
    s.writesOk (2 + (rangeIds first last).length) →
    exec (.readPacket g) s = .next t → t.phase = .idle → t.res.status = .ok →
    t.txLog = s.txLog ++ [142#8, g] ∧
    EndsIn (exec (.readPacketList ((rangeIds first last).map (BitVec.ofNat 8))) s) ({ t with
        txLog := s.txLog ++ [149#8, BitVec.ofNat 8 (rangeIds first last).length] ++
          (rangeIds first last).map (BitVec.ofNat 8)
        txFates := s.txFates.drop (2 + (rangeIds first last).length) }.ended
          (.readPacketList ((rangeIds first last).map (BitVec.ofNat 8))) t.res.data)

/-- R23, R138, R162: a read of which only the first bytes arrive waits, with the cache and RES untouched and RX empty:
READ_PACKET and READ_PACKET_LIST in RESP with those bytes staged, READ_FRAME in one of its own phases, wherever in the
garbage or in the frame the bytes stop. That the wait is a state to be resumed is log entry 4. -/
def Obligations.ShortResponseWaits : Prop :=
  (∀ (s : State) (id : Byte) (bs : List Byte), s.cfg.wf = true → s.cfg.cmdtab = defaultCmdTab →
    s.cfg.rxTimeout = none → inCatalogue s.cfg.catalogue id = true → s.writesOk 2 → s.rx = rxBytes bs →
    bs.length < byteLength s.cfg.catalogue id →
    ∃ t, exec (.readPacket id) s = .next t ∧ t.phase = .resp ∧ t.work.stage = bs ∧ t.rx = [] ∧
      t.cache = s.cache ∧ t.res = s.res ∧ t.txLog = s.txLog ++ [142#8, id]) ∧
  (∀ (s : State) (ids bs : List Byte), s.cfg.wf = true → s.cfg.cmdtab = defaultCmdTab → s.cfg.rxTimeout = none →
    ids.all (inCatalogue s.cfg.catalogue) = true → s.writesOk (2 + ids.length) → s.rx = rxBytes bs →
    bs.length < totalLen s.cfg.catalogue ids →
    ∃ t, exec (.readPacketList ids) s = .next t ∧ t.phase = .resp ∧ t.work.stage = bs ∧ t.rx = [] ∧
      t.cache = s.cache ∧ t.res = s.res ∧ t.txLog = s.txLog ++ [149#8, BitVec.ofNat 8 ids.length] ++ ids) ∧
  ∀ (s : State) (ids bs : List Byte), s.cfg.wf = true → s.cfg.rxTimeout = none →
    ids.all (inCatalogue s.cfg.catalogue) = true → ShortOfFrame s.cfg ids bs → s.rx = rxBytes bs →
    ∃ t, exec (.readFrame ids) s = .next t ∧ t.phase.waits = true ∧ t.phase ≠ .resp ∧ t.rx = [] ∧
      t.cache = s.cache ∧ t.res = s.res ∧ t.txLog = s.txLog

/-- R141, R162, R163, R233: a read of which an RX byte fails ends with `TRANSPORT_FAILURE`: the bytes before it stay
consumed, no cache entry is written, no data is returned. For READ_PACKET and READ_PACKET_LIST, for READ_FRAME anywhere
in the garbage or in the frame, and for whatever else an operation has read when it would have to wait (log entry
4). -/
def Obligations.FailedResponseWritesNoEntry : Prop :=
  (∀ (s : State) (id : Byte) (bs : List Byte) (rest : List RxItem), s.cfg.wf = true → s.cfg.cmdtab = defaultCmdTab →
    inCatalogue s.cfg.catalogue id = true → s.writesOk 2 →
    s.rx = rxBytes bs ++ RxItem.fail :: rest → bs.length < byteLength s.cfg.catalogue id →
    EndsIn (exec (.readPacket id) s)
      ({ s.sent [142#8, id] with rx := rest }.failed (.readPacket id) .transportFailure .none)) ∧
  (∀ (s : State) (ids bs : List Byte) (rest : List RxItem), s.cfg.wf = true → s.cfg.cmdtab = defaultCmdTab →
    ids.all (inCatalogue s.cfg.catalogue) = true → s.writesOk (2 + ids.length) →
    s.rx = rxBytes bs ++ RxItem.fail :: rest → bs.length < totalLen s.cfg.catalogue ids →
    EndsIn (exec (.readPacketList ids) s)
      ({ s.sent ([149#8, BitVec.ofNat 8 ids.length] ++ ids) with rx := rest }.failed
        (.readPacketList ids) .transportFailure .none)) ∧
  (∀ (s : State) (ids bs : List Byte) (rest : List RxItem), s.cfg.wf = true →
    ids.all (inCatalogue s.cfg.catalogue) = true → ShortOfFrame s.cfg ids bs →
    s.rx = rxBytes bs ++ RxItem.fail :: rest →
    EndsIn (exec (.readFrame ids) s) ({ s with rx := rest }.failed (.readFrame ids) .transportFailure .none)) ∧
  ∀ (i : Instr) (s t : State) (rest : List RxItem), s.cfg.rxTimeout = none → exec i s = .next t → t.phase ≠ .idle →
    EndsIn (exec i (s.deliver (.fail :: rest))) ({ t with rx := rest }.failed i .transportFailure .none)

/-! ### Streaming -/

/-- R151, R165: STREAM_START sends its list and remembers it whole; READ_FRAME_SREQ is then READ_FRAME of that
list. -/
def Obligations.StreamStartCompletes : Prop :=
  ∀ (s : State) (ids : List Byte), s.cfg.cmdtab = defaultCmdTab →
    ids.all (inCatalogue s.cfg.catalogue) = true → s.writesOk (2 + ids.length) →
    ∃ t, exec (.streamStart ids) s = .next t ∧ readFrameSreq t = .readFrame ids ∧
      ∃ w : Work, t = { { s.sent ([148#8, BitVec.ofNat 8 ids.length] ++ ids) with sreq := ids }.ended
        (.streamStart ids) .none with work := w }

/-- R153 to R160, R163, R166 (a) and (c): a frame for the expected ids whose bytes sum to 0, behind fewer discarded
bytes than the budget, none of them 19, is decoded: its data is returned and committed, and RX is consumed up to its
checksum byte. In both id modes. -/
def Obligations.GoodFrameIsDecoded : Prop :=
  ∀ (s : State) (ids garbage data : List Byte) (ck : Byte) (rest : List RxItem), s.cfg.wf = true →
    ids.all (inCatalogue s.cfg.catalogue) = true →
    garbage.length < totalLen s.cfg.catalogue ids → header ∉ garbage →
    data.length = totalLen s.cfg.catalogue ids →
    totalLen s.cfg.catalogue ids + (frameIdsOf s.cfg ids).length ≤ 255 →
    byteSum (frameHead s.cfg ids data ++ [ck]) = 0#8 →
    s.rx = rxBytes (garbage ++ frameHead s.cfg ids data ++ [ck]) ++ rest →
    EndsIn (exec (.readFrame ids) s) ({ s with
        rx := rest
        cache := Memory.commit s.cfg.catalogue (expandList s.cfg.catalogue ids) data s.cache }.ended
          (.readFrame ids) (.bytes data))

/-- R159, R163, R166 (b): the same frame with bytes that do not sum to 0 (an altered data or checksum byte) ends with
`FRAME_INTEGRITY`(`CHECKSUM`), read to its checksum byte, with no cache entry written. -/
def Obligations.BadChecksumIsReported : Prop :=
  ∀ (s : State) (ids garbage data : List Byte) (ck : Byte) (rest : List RxItem), s.cfg.wf = true →
    ids.all (inCatalogue s.cfg.catalogue) = true →
    garbage.length < totalLen s.cfg.catalogue ids → header ∉ garbage →
    data.length = totalLen s.cfg.catalogue ids →
    totalLen s.cfg.catalogue ids + (frameIdsOf s.cfg ids).length ≤ 255 →
    byteSum (frameHead s.cfg ids data ++ [ck]) ≠ 0#8 →
    s.rx = rxBytes (garbage ++ frameHead s.cfg ids data ++ [ck]) ++ rest →
    EndsIn (exec (.readFrame ids) s) ({ s with rx := rest }.failed (.readFrame ids) .frameIntegrity .checksum)

/-- R155, R163, R167 (a): a hunt that discards as many bytes as the budget gives up with `PROTOCOL_DESYNC` and reads
no further byte; with an empty list it reads none. -/
def Obligations.HuntGivesUpAtTheBudget : Prop :=
  ∀ (s : State) (ids garbage : List Byte) (rest : List RxItem),
    ids.all (inCatalogue s.cfg.catalogue) = true →
    garbage.length = totalLen s.cfg.catalogue ids → header ∉ garbage → s.rx = rxBytes garbage ++ rest →
    EndsIn (exec (.readFrame ids) s) ({ s with rx := rest }.failed (.readFrame ids) .protocolDesync .none)

/-- R156, R163: after a header, a length byte other than the expected number ends with `FRAME_INTEGRITY`(`LENGTH`);
the comparison is of natural numbers, so an expected number above 255 is never met. -/
def Obligations.WrongLengthIsReported : Prop :=
  ∀ (s : State) (ids garbage : List Byte) (len : Byte) (rest : List RxItem),
    ids.all (inCatalogue s.cfg.catalogue) = true →
    garbage.length < totalLen s.cfg.catalogue ids → header ∉ garbage →
    len.toNat ≠ totalLen s.cfg.catalogue ids + (frameIdsOf s.cfg ids).length →
    s.rx = rxBytes (garbage ++ [header, len]) ++ rest →
    EndsIn (exec (.readFrame ids) s) ({ s with rx := rest }.failed (.readFrame ids) .frameIntegrity .length)

/-- R157, R158, R163: the first id byte that is not the expected one ends with `FRAME_INTEGRITY`(`ID`); the rest of
the frame stays on RX. `us` are the ids before it, `want` the expected one. -/
def Obligations.WrongIdIsReported : Prop :=
  ∀ (s : State) (ids garbage data us vs : List Byte) (want got : Byte) (rest : List RxItem), s.cfg.wf = true →
    ids.all (inCatalogue s.cfg.catalogue) = true →
    garbage.length < totalLen s.cfg.catalogue ids → header ∉ garbage →
    totalLen s.cfg.catalogue ids + (frameIdsOf s.cfg ids).length ≤ 255 →
    frameIdsOf s.cfg ids = us ++ want :: vs → data.length = totalLen s.cfg.catalogue us → got ≠ want →
    s.rx = rxBytes (garbage ++
      [header, BitVec.ofNat 8 (totalLen s.cfg.catalogue ids + (frameIdsOf s.cfg ids).length)] ++
      frameBody s.cfg.catalogue us data ++ [got]) ++ rest →
    EndsIn (exec (.readFrame ids) s) ({ s with rx := rest }.failed (.readFrame ids) .frameIntegrity .id)

/-- R158: on a list of atomic ids the two frame id modes are the same decoder. -/
def Obligations.IdModesAgreeOnAtomicLists : Prop :=
  ∀ (s : State) (ids : List Byte) (mode : FrameIdMode), s.cfg.wf = true →
    (∀ a ∈ ids, isAtom s.cfg.catalogue a) →
    exec (.readFrame ids) { s with cfg := { s.cfg with frameIdMode := mode } } =
      mapNext (fun t => { t with cfg := { t.cfg with frameIdMode := mode } }) (exec (.readFrame ids) s)

/-- R162: the phase transitions of READ_FRAME from HUNT on. -/
def Obligations.FramePhasesFollowTheTable : Prop :=
  (∀ (s : State) (b : Byte), s.phase = .hunt →
    (s.work.disc = s.work.total → s.settle.phase = .idle ∧ s.settle.res = ⟨.protocolDesync, .none, .none⟩) ∧
    (b ≠ header → (s.onItem (.byte b)).phase = .hunt ∧ (s.onItem (.byte b)).work.disc = s.work.disc + 1) ∧
    (b = header → (s.onItem (.byte b)).phase = .flen ∧ (s.onItem (.byte b)).work.chk = 19#8)) ∧
  (∀ (s : State) (b : Byte), s.phase = .flen →
    (b.toNat ≠ s.work.total + s.frameIds.length →
      (s.onItem (.byte b)).phase = .idle ∧ (s.onItem (.byte b)).res = ⟨.frameIntegrity, .length, .none⟩) ∧
    (b.toNat = s.work.total + s.frameIds.length →
      (s.onItem (.byte b)).phase = if s.frameIds.length = 0 then .fchk else .pid)) ∧
  (∀ (s : State) (b want : Byte), s.phase = .pid → s.frameIds[s.work.idx]? = some want →
    (b ≠ want → (s.onItem (.byte b)).phase = .idle ∧ (s.onItem (.byte b)).res = ⟨.frameIntegrity, .id, .none⟩) ∧
    (b = want → (s.onItem (.byte b)).phase = .pdata)) ∧
  (∀ (s : State) (b : Byte), s.phase = .pdata →
    (1 < s.work.cnt → (s.onItem (.byte b)).phase = .pdata) ∧
    (s.work.cnt = 1 → s.work.idx + 1 < s.frameIds.length → (s.onItem (.byte b)).phase = .pid) ∧
    (s.work.cnt = 1 → s.work.idx + 1 = s.frameIds.length → (s.onItem (.byte b)).phase = .fchk)) ∧
  (∀ (s : State) (b : Byte), s.phase = .fchk →
    (s.work.chk + b ≠ 0#8 →
      (s.onItem (.byte b)).phase = .idle ∧ (s.onItem (.byte b)).res = ⟨.frameIntegrity, .checksum, .none⟩) ∧
    (s.work.chk + b = 0#8 →
      (s.onItem (.byte b)).phase = .idle ∧ (s.onItem (.byte b)).res = ⟨.ok, .none, .bytes s.work.stage⟩)) ∧
  ∀ s : State, s.phase.waits = true →
    (s.onItem .fail).phase = .idle ∧ (s.onItem .fail).res = ⟨.transportFailure, .none, .none⟩

/-! ### Waiting and going on -/

/-- R18, R23: an operation ends idle, or waits in a phase that reads RX with RX empty and no time-out. -/
def Obligations.OperationsEndIdleOrWaitOnEmptyRx : Prop :=
  ∀ (i : Instr) (s t : State), exec i s = .next t →
    t.phase = .idle ∨ (t.phase.waits = true ∧ t.rx = [] ∧ s.cfg.rxTimeout = none)

/-- R23, R233, R244: with RX_TIMEOUT set, a read (READ_PACKET, READ_PACKET_LIST, or READ_FRAME anywhere in the garbage or
in the frame) whose bytes do not all come ends with `TRANSPORT_FAILURE` and writes no cache entry. That the wait has
expired when RX is exhausted is the model's reading (log entry 4). -/
def Obligations.TimeOutEndsTheWait : Prop :=
  (∀ (s : State) (id : Byte) (bs : List Byte), s.cfg.wf = true → s.cfg.cmdtab = defaultCmdTab →
    s.cfg.rxTimeout.isSome = true → inCatalogue s.cfg.catalogue id = true → s.writesOk 2 → s.rx = rxBytes bs →
    bs.length < byteLength s.cfg.catalogue id →
    EndsIn (exec (.readPacket id) s)
      ({ s.sent [142#8, id] with rx := [] }.failed (.readPacket id) .transportFailure .none)) ∧
  (∀ (s : State) (ids bs : List Byte), s.cfg.wf = true → s.cfg.cmdtab = defaultCmdTab →
    s.cfg.rxTimeout.isSome = true → ids.all (inCatalogue s.cfg.catalogue) = true → s.writesOk (2 + ids.length) →
    s.rx = rxBytes bs → bs.length < totalLen s.cfg.catalogue ids →
    EndsIn (exec (.readPacketList ids) s)
      ({ s.sent ([149#8, BitVec.ofNat 8 ids.length] ++ ids) with rx := [] }.failed
        (.readPacketList ids) .transportFailure .none)) ∧
  ∀ (s : State) (ids bs : List Byte), s.cfg.wf = true →
    s.cfg.rxTimeout.isSome = true → ids.all (inCatalogue s.cfg.catalogue) = true → ShortOfFrame s.cfg ids bs →
    s.rx = rxBytes bs →
    EndsIn (exec (.readFrame ids) s) ({ s with rx := [] }.failed (.readFrame ids) .transportFailure .none)

/-- R23, R55: it does not matter when RX items arrive. An operation that waits after the items `xs` and is resumed
when `ys` have arrived ends in the state in which it ends when all of them are there at once; one that ended before
them leaves them on RX. -/
def Obligations.DeliveryInPiecesIsTheSame : Prop :=
  ∀ (i : Instr) (s t : State) (ys : List RxItem), s.cfg.wf = true → s.cfg.rxTimeout = none → exec i s = .next t →
    (t.phase = .idle → exec i (s.deliver ys) = .next (t.deliver ys)) ∧
    (t.phase ≠ .idle → exec i (s.deliver ys) = step (t.deliver ys))

/-! ### Accessors -/

/-- R221 to R224: the selectors of the accessors; an accessor of an id that is no atomic packet of its width (for
GET_BIT: or with a mask that is no single bit) ends with `INVALID_ARGUMENT`; of an entry never populated, with
`NOT_POPULATED` and no value; of a populated entry, with its decode. Nothing else changes. -/
def Obligations.AccessorsAnswerEveryCase : Prop :=
  (∀ id mask : Byte, (Instr.getBit id mask).sel = 0x20#8 ∧ (Instr.getU8 id).sel = 0x21#8 ∧
    (Instr.getS16 id).sel = 0x22#8 ∧ (Instr.getU16 id).sel = 0x23#8) ∧
  (∀ (s : State) (id : Byte), ¬ (isAtom s.cfg.catalogue id ∧ byteLength s.cfg.catalogue id = 1) →
    EndsIn (exec (.getU8 id) s) (s.failed (.getU8 id) .invalidArgument .none) ∧
    ∀ mask : Byte, EndsIn (exec (.getBit id mask) s) (s.failed (.getBit id mask) .invalidArgument .none)) ∧
  (∀ (s : State) (id : Byte), ¬ (isAtom s.cfg.catalogue id ∧ byteLength s.cfg.catalogue id = 2) →
    EndsIn (exec (.getS16 id) s) (s.failed (.getS16 id) .invalidArgument .none) ∧
    EndsIn (exec (.getU16 id) s) (s.failed (.getU16 id) .invalidArgument .none)) ∧
  (∀ (s : State) (id mask : Byte), (∀ k : Nat, k < 8 → mask ≠ BitVec.ofNat 8 (2 ^ k)) →
    EndsIn (exec (.getBit id mask) s) (s.failed (.getBit id mask) .invalidArgument .none)) ∧
  (∀ (s : State) (id : Byte), isAtom s.cfg.catalogue id → byteLength s.cfg.catalogue id = 1 →
    (s.cache.read id.toNat = none →
      EndsIn (exec (.getU8 id) s) (s.failed (.getU8 id) .notPopulated .none) ∧
      ∀ k : Nat, k < 8 → EndsIn (exec (.getBit id (BitVec.ofNat 8 (2 ^ k))) s)
        (s.failed (.getBit id (BitVec.ofNat 8 (2 ^ k))) .notPopulated .none)) ∧
    ∀ b : Byte, s.cache.read id.toNat = some [b] →
      EndsIn (exec (.getU8 id) s) (s.ended (.getU8 id) (.int b.toNat)) ∧
      ∀ k : Nat, k < 8 → EndsIn (exec (.getBit id (BitVec.ofNat 8 (2 ^ k))) s)
        (s.ended (.getBit id (BitVec.ofNat 8 (2 ^ k))) (.bool (b.getLsbD k)))) ∧
  ∀ (s : State) (id : Byte), isAtom s.cfg.catalogue id → byteLength s.cfg.catalogue id = 2 →
    (s.cache.read id.toNat = none →
      EndsIn (exec (.getS16 id) s) (s.failed (.getS16 id) .notPopulated .none) ∧
      EndsIn (exec (.getU16 id) s) (s.failed (.getU16 id) .notPopulated .none)) ∧
    ∀ h l : Byte, s.cache.read id.toNat = some [h, l] →
      EndsIn (exec (.getS16 id) s) (s.ended (.getS16 id) (.int (dec16 h l))) ∧
      EndsIn (exec (.getU16 id) s) (s.ended (.getU16 id) (.int (decu16 h l)))

/-! ### The whole machine -/

/-- R261: the state after reset, of every configuration; none of it depends on the configuration. -/
def Obligations.ResetLeavesTheBlockEmpty : Prop :=
  (∀ c : Config, (State.resetWith c).mode = .off ∧ (State.resetWith c).sreqN = 0#8 ∧
    (State.resetWith c).phase = .idle ∧ ∀ id : Nat, (State.resetWith c).cache.valid id = false) ∧
  ∀ c d : Config, State.resetWith d = { State.resetWith c with cfg := d }

/-- The invariant of the block holds after reset, with every well-formed configuration. -/
def Obligations.ResetMeetsTheInvariant : Prop :=
  State.reset.Inv ∧ ∀ c : Config, c.wf = true → (State.resetWith c).Inv

/-- R18, R41, R42, R12, R19: every step keeps the invariant of the block, from every state that meets it: the
configuration is well formed, the block is at rest, every valid cache entry is that of an atomic packet and has its
length, the remembered ids are known, and the working registers agree with the phase. -/
def Obligations.StepKeepsTheInvariant : Prop :=
  ∀ s t : State, s.Inv → step s = .next t → t.Inv

/-- From a state that meets the invariant no step faults. -/
def Obligations.NoFaultUnderTheInvariant : Prop :=
  ∀ (s : State) (r : Fault), s.Inv → step s ≠ .fault r

/-- From a state that meets the invariant a step is refused only for an s16 operand out of range (R237) or for bytes
that are no CMD record (log entry 14). -/
def Obligations.RefusalsUnderTheInvariant : Prop :=
  ∀ (s : State) (r : Refusal), s.Inv → step s = .refused r →
    r = .s16OutOfRange ∨ ∃ e : DecodeError, r = .malformedRecord e

/-- R10, R22, R23, R53: a step never changes the configuration, takes back no byte from TX, consumes RX items from
the front only, and takes at most one record. -/
def Obligations.PortsMoveForwardOnly : Prop :=
  ∀ s t : State, step s = .next t →
    t.cfg = s.cfg ∧ (∃ sent, t.txLog = s.txLog ++ sent) ∧ (∃ taken, s.rx = taken ++ t.rx) ∧
    (∃ fates, s.txFates = fates ++ t.txFates) ∧ (t.host = s.host ∨ ∃ record, s.host = record :: t.host)

/-- R44: only the three read operations change the cache, and only when they end with OK; no valid bit is ever
cleared. -/
def Obligations.OnlyReadsWriteTheCache : Prop :=
  (∀ (i : Instr) (s t : State), exec i s = .next t → t.cache ≠ s.cache →
    i.readsSensors = true ∧ t.phase = .idle ∧ t.res.status = .ok) ∧
  (∀ (s t : State) (id : Nat), step s = .next t → s.cache.valid id = true → t.cache.valid id = true) ∧
  ∀ (m : Memory) (id j : Nat) (v : List Byte), (m.write id v).read j = if j = id then some v else m.read j

/-- R115: `setMode` is one of the four mode operations, and these are the only ones that write MODE; only
STREAM_START writes SREQ (R12); both only on OK. -/
def Obligations.WritersOfModeAndSreq : Prop :=
  (setMode .passive = .modePassive ∧ setMode .safe = .modeSafe ∧ setMode .full = .modeFull ∧
    setMode .off = .modeOff) ∧
  ∀ (i : Instr) (s t : State), exec i s = .next t →
    (t.mode ≠ s.mode → i.setsMode = true ∧ t.res.status = .ok) ∧
    (t.sreq ≠ s.sreq → i.setsSreq = true ∧ t.res.status = .ok)

/-- R11, R12, R20, R26, R247: no operation reads MODE, SREQ or the last result: with other values in them it does the
same, to its own STATUS and DATA, to the MODE or the SREQ that it writes, and to everything else. -/
def Obligations.ModeSreqAndResultAreNeverRead : Prop :=
  ∀ (i : Instr) (s : State) (m : OperatingMode) (ids : List Byte) (r : ResLatch),
    mapNext (State.effectOf i) (exec i { s with mode := m, sreq := ids, res := r }) =
      mapNext (State.effectOf i) (exec i s)

/-- R16, R18, R19: an operation uses nothing that an earlier one left in CMD, PHASE or the working registers. -/
def Obligations.WorkingRegistersCarryNothingOver : Prop :=
  ∀ (i : Instr) (s : State) (c : CmdLatch) (p : Phase) (w : Work),
    exec i { s with cmd := c, phase := p, work := w } = exec i s

/-- R79: the length of each command, by its format. -/
def Obligations.CommandLengths : Prop :=
  ∀ (i : Instr) (bs : List Byte), commandBytes defaultCmdTab i = some bs →
    bs.length = match i with
      | .modePassive | .modeSafe | .modeFull | .modeOff | .runScript | .readScript => 1
      | .setBaud _ | .lsdFull _ | .playSong _ | .readPacket _ | .digitalOut _ | .streamPauseResume _ | .sendIr _
      | .waitTime _ | .waitEvent _ => 2
      | .waitDistance _ | .waitAngle _ => 3
      | .leds _ _ _ | .lsdPwm _ _ _ => 4
      | .drive _ _ | .driveDirect _ _ | .drivePwm _ _ => 5
      | .streamStart ids | .readPacketList ids | .storeScript ids => 2 + ids.length
      | .storeSong _ notes => 3 + 2 * notes.length
      | .enc16 _ | .dec16 _ _ | .readFrame _ | .getBit _ _ | .getU8 _ | .getS16 _ | .getU16 _ => 0

/-- R74, R199: with a command table that fits the operations, every wire operation whose s16 operands are in range
has its bytes, and their first is the opcode of its row. -/
def Obligations.FittingTableHasEveryCommand : Prop :=
  ∀ (tab : CmdTab) (i : Instr), cmdTabWf tab = true → i.isWire = true → i.operands.all Operand.inRange = true →
    ∃ (r : CmdRow) (payload : List Byte), cmdRow tab i.sel = some r ∧ commandBytes tab i = some (r.opcode :: payload)
end

