-- ==== Sys2Proof/Laws/Catalogue.lean ====
section
/-! SUPPORT. What the catalogue functions give under a well-formed catalogue (R128). -/
namespace Sys2Proof

@[simp] theorem expandList_nil (c : Catalogue) : expandList c [] = [] := rfl

@[simp] theorem expandList_cons (c : Catalogue) (id : Byte) (ids : List Byte) :
    expandList c (id :: ids) = expand c id ++ expandList c ids := rfl

theorem expandList_append (c : Catalogue) (xs ys : List Byte) :
    expandList c (xs ++ ys) = expandList c xs ++ expandList c ys := by
  simp [expandList]

@[simp] theorem sumLen_nil (c : Catalogue) : sumLen c [] = 0 := rfl

@[simp] theorem sumLen_cons (c : Catalogue) (a : Byte) (as : List Byte) :
    sumLen c (a :: as) = byteLength c a + sumLen c as := by
  simp [sumLen]

@[simp] theorem sumLen_append (c : Catalogue) (xs ys : List Byte) :
    sumLen c (xs ++ ys) = sumLen c xs + sumLen c ys := by
  simp [sumLen]

/-- A descriptor that is found has the id that was looked up and stands in the catalogue. -/
theorem descriptor_some {c : Catalogue} {id : Nat} {d : Descriptor} (h : descriptor c id = some d) :
    d.id = id ∧ d ∈ c := by
  refine ⟨?_, List.mem_of_find?_eq_some h⟩
  have := List.find?_some h
  simpa using this

/-- R121, R128 (a): an id of the catalogue is a byte. -/
theorem descriptor_lt {c : Catalogue} (hc : idsInRange c = true) {id : Nat} {d : Descriptor}
    (h : descriptor c id = some d) : id < 256 := by
  obtain ⟨rfl, hd⟩ := descriptor_some h
  have := List.all_eq_true.1 hc d hd
  simpa using this

/-- An atomic packet expands to itself (R124). -/
theorem expandWithin_atom {c : Catalogue} {id : Byte} (h : Machine.isAtom c id) (fuel : Nat) :
    expandWithin c (fuel + 1) id.toNat = [id] := by
  obtain ⟨h1, h2⟩ := h
  unfold inCatalogue at h1
  unfold isComposite at h2
  simp only [expandWithin]
  cases hd : descriptor c id.toNat with
  | none => simp [hd] at h1
  | some d =>
    simp only [hd] at h2 ⊢
    cases hg : d.groupRange with
    | none => simp
    | some g => simp [hg] at h2

/-- R124: the recursion gives atomic packets of the catalogue only. -/
theorem expandWithin_atoms {c : Catalogue} (hc : idsInRange c = true) (fuel id : Nat) :
    ∀ a ∈ expandWithin c fuel id, Machine.isAtom c a := by
  induction fuel generalizing id with
  | zero => simp [expandWithin]
  | succ fuel ih =>
    intro a ha
    simp only [expandWithin] at ha
    cases hd : descriptor c id with
    | none => simp [hd] at ha
    | some d =>
      simp only [hd] at ha
      cases hg : d.groupRange with
      | none =>
        have hid := descriptor_lt hc hd
        have ha' : a = BitVec.ofNat 8 id := by simpa [hg] using ha
        have hnat : a.toNat = id := by rw [ha', BitVec.toNat_ofNat]; omega
        simp [Machine.isAtom, inCatalogue, isComposite, hnat, hd, hg]
      | some g =>
        obtain ⟨first, last⟩ := g
        simp only [hg, List.mem_flatMap] at ha
        obtain ⟨m, -, hm⟩ := ha
        exact ih m a hm

/-- The empty catalogue knows no id, so a catalogue that knows one is not empty. -/
theorem inCatalogue_length {c : Catalogue} {id : Byte} (h : inCatalogue c id = true) : 0 < c.length := by
  cases c with
  | nil => simp [inCatalogue, descriptor] at h
  | cons d ds => simp

/-- R128: the parts of well-formedness that the laws of expansion need. -/
theorem catalogueWf_parts {c : Catalogue} (h : catalogueWf c = true) :
    idsInRange c = true ∧ lengthsPositive c = true ∧ rangesPopulated c = true ∧ acyclic c = true ∧
      sumsMatch c = true := by
  simp only [catalogueWf, Bool.and_eq_true] at h
  tauto

/-- R128 (d): where the nesting ends, more depth gives the same expansion. -/
theorem expandWithin_stable {c : Catalogue} {fuel id : Nat} (h : nestsWithin c fuel id = true) :
    expandWithin c (fuel + 1) id = expandWithin c fuel id := by
  induction fuel generalizing id with
  | zero => simp [nestsWithin] at h
  | succ fuel ih =>
    rw [expandWithin.eq_2, expandWithin.eq_2]
    rw [nestsWithin.eq_2] at h
    cases hd : descriptor c id with
    | none => rfl
    | some d =>
      simp only [hd] at h ⊢
      cases hg : d.groupRange with
      | none => rfl
      | some g =>
        obtain ⟨first, last⟩ := g
        simp only [hg, List.all_eq_true] at h ⊢
        exact List.flatMap_congr fun m hm => ih (h m hm)

/-- R128 (b): a packet of the catalogue has at least one byte. -/
theorem byteLength_pos {c : Catalogue} (hc : lengthsPositive c = true) {id : Byte} (h : inCatalogue c id = true) :
    1 ≤ byteLength c id := by
  obtain ⟨d, hd⟩ := Option.isSome_iff_exists.1 h
  have := List.all_eq_true.1 hc d (descriptor_some hd).2
  rw [byteLength, hd]
  simpa using this

/-- R124: an atomic packet expands to itself. -/
theorem expand_atom {c : Catalogue} {a : Byte} (h : Machine.isAtom c a) : expand c a = [a] := by
  obtain ⟨k, hk⟩ : ∃ k, c.length = k + 1 := ⟨c.length - 1, by have := inCatalogue_length h.1; omega⟩
  rw [expand, hk, expandWithin_atom h]

/-- R125: a list of atomic packets expands to itself. -/
theorem expandList_atoms {c : Catalogue} {as : List Byte} (h : ∀ a ∈ as, Machine.isAtom c a) :
    expandList c as = as := by
  induction as with
  | nil => rfl
  | cons a as ih =>
    rw [expandList_cons, expand_atom (h a (by simp)), ih fun b hb => h b (by simp [hb])]
    rfl

end Sys2Proof
end

