-- ==== Sys2Proof/Laws/Decode.lean ====
section
/-! SUPPORT. What the readers of the operands and the operand encoder do to each other. -/
namespace Sys2Proof

@[simp] theorem natToBytes_length (k n : Nat) : (natToBytes k n).length = k := by
  induction k generalizing n with
  | zero => rfl
  | succ k ih => simp [natToBytes, ih]

theorem bytesToNat_append (xs : List Byte) (b : Byte) : bytesToNat (xs ++ [b]) = 256 * bytesToNat xs + b.toNat := by
  simp [bytesToNat]

/-- The number of the low `k` bytes of `n` is `n` modulo their range. -/
theorem bytesToNat_natToBytes (k n : Nat) : bytesToNat (natToBytes k n) = n % 256 ^ k := by
  induction k generalizing n with
  | zero => simp [natToBytes, bytesToNat, Nat.mod_one]
  | succ k ih =>
    rw [natToBytes, bytesToNat_append, ih, BitVec.toNat_ofNat, pow_succ' 256 k, Nat.mod_mul, Nat.add_comm]

/-- The bytes of the number of `bs` are `bs`. -/
theorem natToBytes_bytesToNat (bs : List Byte) : natToBytes bs.length (bytesToNat bs) = bs := by
  induction bs using List.reverseRecOn with
  | nil => rfl
  | append_singleton xs b ih =>
    rw [List.length_append, List.length_singleton, natToBytes, bytesToNat_append]
    have h1 : (256 * bytesToNat xs + b.toNat) / 256 = bytesToNat xs := by have := b.isLt; omega
    have h2 : BitVec.ofNat 8 (256 * bytesToNat xs + b.toNat) = b := by
      apply BitVec.eq_of_toNat_eq
      rw [BitVec.toNat_ofNat]
      have := b.isLt
      omega
    rw [h1, h2, ih]

theorem two_pow_pred {w : Nat} (hw : 1 ≤ w) : 2 ^ w = 2 * 2 ^ (w - 1) := by
  rw [← pow_succ']
  congr 1
  omega

/-- The pattern of a signed integer of `w` bits reads back as that integer. -/
theorem toSigned_ofSigned {w : Nat} (hw : 1 ≤ w) {v : Int} (h : fitsSigned w v = true) :
    ofSigned w v < 2 ^ w ∧ toSigned w (ofSigned w v) = v := by
  have hp := two_pow_pred hw
  have hpz : (2 : Int) ^ w = 2 * 2 ^ (w - 1) := by exact_mod_cast hp
  have hpos : (0 : Int) < 2 ^ (w - 1) := by positivity
  have hc : ((2 ^ (w - 1) : Nat) : Int) = (2 : Int) ^ (w - 1) := by push_cast; rfl
  simp only [fitsSigned, Bool.and_eq_true, decide_eq_true_eq] at h
  obtain ⟨h1, h2⟩ := h
  have hm0 : 0 ≤ v % (2 : Int) ^ w := Int.emod_nonneg _ (by omega)
  have hm1 : v % (2 : Int) ^ w < 2 ^ w := Int.emod_lt_of_pos _ (by omega)
  have hn : ((ofSigned w v : Nat) : Int) = v % (2 : Int) ^ w := by rw [ofSigned, Int.toNat_of_nonneg hm0]
  have hv : v % (2 : Int) ^ w = v ∨ v % (2 : Int) ^ w = v + 2 ^ w := by
    by_cases h0 : 0 ≤ v
    · exact .inl (Int.emod_eq_of_lt h0 (by omega))
    · right
      rw [← Int.add_emod_right, Int.emod_eq_of_lt (by omega) (by omega)]
  refine ⟨by have : ((2 ^ w : Nat) : Int) = (2 : Int) ^ w := by push_cast; rfl
             omega, ?_⟩
  unfold toSigned
  split_ifs with hlt
  · rw [hn]; omega
  · rw [hn]; omega

/-- A pattern of `w` bits reads as a signed integer of `w` bits, whose pattern it is. -/
theorem ofSigned_toSigned {w : Nat} (hw : 1 ≤ w) {u : Nat} (h : u < 2 ^ w) :
    fitsSigned w (toSigned w u) = true ∧ ofSigned w (toSigned w u) = u := by
  have hp := two_pow_pred hw
  have hpz : (2 : Int) ^ w = 2 * 2 ^ (w - 1) := by exact_mod_cast hp
  have hc : ((2 ^ (w - 1) : Nat) : Int) = (2 : Int) ^ (w - 1) := by push_cast; rfl
  have hc' : ((2 ^ w : Nat) : Int) = (2 : Int) ^ w := by push_cast; rfl
  unfold toSigned
  split_ifs with hlt
  · refine ⟨by simp only [fitsSigned, Bool.and_eq_true, decide_eq_true_eq]; omega, ?_⟩
    rw [ofSigned, Int.emod_eq_of_lt (by omega) (by omega)]
    simp
  · refine ⟨by simp only [fitsSigned, Bool.and_eq_true, decide_eq_true_eq]; omega, ?_⟩
    rw [ofSigned, ← Int.add_emod_right, Int.sub_add_cancel, Int.emod_eq_of_lt (by omega) (by omega)]
    simp

/-- The bytes of an s16 operand hold its pattern. -/
theorem lt_s16Bytes (w : Nat) : 2 ^ w ≤ 256 ^ s16Bytes w := by
  rw [show (256 : Nat) = 2 ^ 8 from rfl, ← pow_mul]
  exact Nat.pow_le_pow_right (by norm_num) (by unfold s16Bytes; omega)

@[simp] theorem takeU8_encode (w : Nat) (sel b : Byte) (r : List Byte) :
    takeU8 sel (encodeOperand w (.u8 b) ++ r) = .ok (b, r) := rfl

@[simp] theorem takeBaud_encode (w : Nat) (sel : Byte) (code : BitVec 4) (r : List Byte) :
    takeBaud sel (encodeOperand w (.baud code) ++ r) = .ok (code, r) := by
  have h := code.isLt
  have h2 : code.toNat % 256 = code.toNat := by omega
  simp only [encodeOperand, List.singleton_append, takeBaud, BitVec.toNat_ofNat]
  norm_num [h2, h]

theorem takeS16_encode {w : Nat} (hw : 1 ≤ w) (sel : Byte) {v : Int} (h : fitsSigned w v = true) (r : List Byte) :
    takeS16 w sel (encodeOperand w (.s16 v) ++ r) = .ok (v, r) := by
  obtain ⟨h1, h2⟩ := toSigned_ofSigned hw h
  have h3 := lt_s16Bytes w
  have h4 : bytesToNat (natToBytes (s16Bytes w) (ofSigned w v)) = ofSigned w v := by
    rw [bytesToNat_natToBytes, Nat.mod_eq_of_lt (by omega)]
  have hlen := natToBytes_length (s16Bytes w) (ofSigned w v)
  have h5 : ¬ (natToBytes (s16Bytes w) (ofSigned w v) ++ r).length < s16Bytes w := by simp
  rw [encodeOperand, takeS16, if_neg h5, List.take_left' hlen, List.drop_left' hlen, h4, if_pos h1, h2]

theorem takeList_encode (w : Nat) (sel : Byte) {bs : List Byte} (h : fitsCount bs.length = true) (r : List Byte) :
    takeList sel (encodeOperand w (.list bs) ++ r) = .ok (bs, r) := by
  have hl : bs.length % 256 = bs.length := by
    simp only [fitsCount, decide_eq_true_eq] at h
    omega
  simp [encodeOperand, takeList, hl]

theorem takePairsN_encode (sel : Byte) (ps : List (Byte × Byte)) (r : List Byte) :
    takePairsN sel ps.length (ps.flatMap (fun p => [p.1, p.2]) ++ r) = .ok (ps, r) := by
  induction ps with
  | nil => rfl
  | cons p ps ih => simp [takePairsN, ih]

theorem takePairs_encode (w : Nat) (sel : Byte) {ps : List (Byte × Byte)} (h : fitsCount ps.length = true)
    (r : List Byte) : takePairs sel (encodeOperand w (.pairs ps) ++ r) = .ok (ps, r) := by
  have hl : ps.length % 256 = ps.length := by
    simp only [fitsCount, decide_eq_true_eq] at h
    omega
  simp only [encodeOperand, List.cons_append, takePairs, BitVec.toNat_ofNat]
  rw [show ps.length % 2 ^ 8 = ps.length from hl]
  exact takePairsN_encode sel ps r

theorem takeU8_ok {sel b : Byte} {bytes r : List Byte} (w : Nat) (h : takeU8 sel bytes = .ok (b, r)) :
    bytes = encodeOperand w (.u8 b) ++ r := by
  cases bytes with
  | nil => simp [takeU8] at h
  | cons x xs =>
    simp only [takeU8, Except.ok.injEq, Prod.mk.injEq] at h
    simp [encodeOperand, h.1, h.2]

theorem takeBaud_ok {sel : Byte} {code : BitVec 4} {bytes r : List Byte} (w : Nat)
    (h : takeBaud sel bytes = .ok (code, r)) : bytes = encodeOperand w (.baud code) ++ r := by
  cases bytes with
  | nil => simp [takeBaud] at h
  | cons x xs =>
    simp only [takeBaud] at h
    split_ifs at h with hx
    simp only [Except.ok.injEq, Prod.mk.injEq] at h
    obtain ⟨rfl, rfl⟩ := h
    have : BitVec.ofNat 8 (BitVec.ofNat 4 x.toNat).toNat = x := by
      apply BitVec.eq_of_toNat_eq
      simp only [BitVec.toNat_ofNat]
      omega
    rw [encodeOperand, this, List.singleton_append]

theorem takeS16_ok {w : Nat} (hw : 1 ≤ w) {sel : Byte} {v : Int} {bytes r : List Byte}
    (h : takeS16 w sel bytes = .ok (v, r)) :
    fitsSigned w v = true ∧ bytes = encodeOperand w (.s16 v) ++ r := by
  simp only [takeS16] at h
  split_ifs at h with h1 h2
  simp only [Except.ok.injEq, Prod.mk.injEq] at h
  obtain ⟨rfl, rfl⟩ := h
  obtain ⟨h3, h4⟩ := ofSigned_toSigned hw h2
  refine ⟨h3, ?_⟩
  have hlen : (bytes.take (s16Bytes w)).length = s16Bytes w := by simp; omega
  have h5 := natToBytes_bytesToNat (bytes.take (s16Bytes w))
  rw [hlen] at h5
  simp [encodeOperand, h4, h5]

theorem takeList_ok {sel : Byte} {bs bytes r : List Byte} (w : Nat) (h : takeList sel bytes = .ok (bs, r)) :
    fitsCount bs.length = true ∧ bytes = encodeOperand w (.list bs) ++ r := by
  cases bytes with
  | nil => simp [takeList] at h
  | cons n xs =>
    simp only [takeList] at h
    split_ifs at h with h1
    simp only [Except.ok.injEq, Prod.mk.injEq] at h
    obtain ⟨rfl, rfl⟩ := h
    have hn := n.isLt
    have hm : min n.toNat xs.length = n.toNat := by omega
    simp [encodeOperand, fitsCount, hm]
    omega

theorem takePairsN_ok {sel : Byte} {n : Nat} {ps : List (Byte × Byte)} {bytes r : List Byte}
    (h : takePairsN sel n bytes = .ok (ps, r)) :
    ps.length = n ∧ bytes = ps.flatMap (fun p => [p.1, p.2]) ++ r := by
  induction n generalizing bytes ps with
  | zero =>
    simp only [takePairsN, Except.ok.injEq, Prod.mk.injEq] at h
    obtain ⟨rfl, rfl⟩ := h
    simp
  | succ n ih =>
    match bytes with
    | [] => simp [takePairsN] at h
    | [_] => simp [takePairsN] at h
    | a :: b :: xs =>
      simp only [takePairsN] at h
      split at h
      · next qs r' hq =>
        simp only [Except.ok.injEq, Prod.mk.injEq] at h
        obtain ⟨rfl, rfl⟩ := h
        obtain ⟨h1, h2⟩ := ih hq
        simp [h1, h2]
      · cases h

theorem takePairs_ok {sel : Byte} {ps : List (Byte × Byte)} {bytes r : List Byte} (w : Nat)
    (h : takePairs sel bytes = .ok (ps, r)) :
    fitsCount ps.length = true ∧ bytes = encodeOperand w (.pairs ps) ++ r := by
  cases bytes with
  | nil => simp [takePairs] at h
  | cons n xs =>
    obtain ⟨h1, h2⟩ := takePairsN_ok h
    have hn := n.isLt
    refine ⟨by simp only [fitsCount, decide_eq_true_eq]; omega, ?_⟩
    simp [encodeOperand, h1, ← h2]

end Sys2Proof
end

