-- ==== Sys2Proof/Laws/Memory.lean ====
section
/-! SUPPORT. The sensor cache as a memory: a read after a write, and the canonical form that every operation keeps. -/
namespace Sys2Proof.Machine

/-- R44: the entry written is what the entry reads as. -/
@[simp] theorem Memory.read_write_same (m : Memory) (id : Nat) (v : List Byte) : (m.write id v).read id = some v := by
  induction m with
  | nil => simp [Memory.write, Memory.read]
  | cons e r ih =>
    obtain ⟨k, d⟩ := e
    simp only [Memory.write]
    split_ifs with h1 h2
    · simp [Memory.read]
    · simp [Memory.read]
    · have h3 : k ≠ id := fun h => h2 h.symm
      simp [Memory.read, h3, ih]

/-- R44: a write leaves every other entry alone. -/
theorem Memory.read_write_other (m : Memory) {id j : Nat} (v : List Byte) (h : j ≠ id) :
    (m.write id v).read j = m.read j := by
  induction m with
  | nil => simp [Memory.write, Memory.read, Ne.symm h]
  | cons e r ih =>
    obtain ⟨k, d⟩ := e
    simp only [Memory.write]
    split_ifs with h1 h2
    · simp [Memory.read, Ne.symm h]
    · subst h2; simp [Memory.read, Ne.symm h]
    · simp [Memory.read, ih]

/-- Both together. -/
theorem Memory.read_write (m : Memory) (id j : Nat) (v : List Byte) :
    (m.write id v).read j = if j = id then some v else m.read j := by
  split_ifs with h
  · rw [h, Memory.read_write_same]
  · exact Memory.read_write_other m v h

/-- The entries of a memory after a write are the one written and entries it had. -/
theorem Memory.mem_write {m : Memory} {id : Nat} {v : List Byte} {e : Nat × List Byte} (h : e ∈ m.write id v) :
    e = (id, v) ∨ e ∈ m := by
  induction m with
  | nil => simpa [Memory.write] using h
  | cons a r ih =>
    obtain ⟨k, d⟩ := a
    simp only [Memory.write] at h
    split_ifs at h <;> simp only [List.mem_cons] at h ⊢ <;> tauto

/-- A write keeps the canonical form. -/
theorem Memory.wf_write {m : Memory} (hm : m.wf) {id : Nat} (hid : id < 256) (v : List Byte) : (m.write id v).wf := by
  refine ⟨?_, fun e he => ?_⟩
  · obtain ⟨hp, -⟩ := hm
    induction m with
    | nil => simp [Memory.write]
    | cons a r ih =>
      obtain ⟨k, d⟩ := a
      rw [List.pairwise_cons] at hp
      simp only [Memory.write]
      split_ifs with h1 h2
      · refine List.pairwise_cons.2 ⟨fun e he => ?_, List.pairwise_cons.2 hp⟩
        rcases List.mem_cons.1 he with rfl | he
        · exact h1
        · exact lt_trans h1 (hp.1 e he)
      · subst h2; exact List.pairwise_cons.2 hp
      · refine List.pairwise_cons.2 ⟨fun e he => ?_, ih hp.2⟩
        rcases Memory.mem_write he with rfl | he
        · show k < id
          omega
        · exact hp.1 e he
  · rcases Memory.mem_write he with rfl | he
    · exact hid
    · exact hm.2 e he

/-- A commit keeps the canonical form. -/
theorem Memory.wf_commit (c : Catalogue) (atoms stage : List Byte) {m : Memory} (hm : m.wf) :
    (Memory.commit c atoms stage m).wf := by
  induction atoms generalizing stage m with
  | nil => exact hm
  | cons a as ih => exact ih _ (Memory.wf_write hm a.isLt _)

/-- R46: a commit leaves alone every entry whose id is not among those it writes. -/
theorem Memory.read_commit_other (c : Catalogue) (atoms stage : List Byte) (m : Memory) {j : Nat}
    (h : ∀ a ∈ atoms, a.toNat ≠ j) : (Memory.commit c atoms stage m).read j = m.read j := by
  induction atoms generalizing stage m with
  | nil => rfl
  | cons a as ih =>
    rw [Memory.commit, ih _ _ (fun b hb => h b (List.mem_cons_of_mem _ hb)),
      Memory.read_write_other _ _ (Ne.symm (h a List.mem_cons_self))]

/-- R44: a commit clears no valid bit. -/
theorem Memory.valid_commit (c : Catalogue) (atoms stage : List Byte) {m : Memory} {j : Nat} (h : m.valid j = true) :
    (Memory.commit c atoms stage m).valid j = true := by
  induction atoms generalizing stage m with
  | nil => exact h
  | cons a as ih =>
    refine ih _ ?_
    unfold Memory.valid at h ⊢
    rw [Memory.read_write]
    split_ifs
    · rfl
    · exact h

/-- R46: a commit of two lists of ids is the commit of the first, then of the second with the bytes left. -/
theorem Memory.commit_append (c : Catalogue) (xs ys stage : List Byte) (m : Memory) :
    Memory.commit c (xs ++ ys) stage m =
      Memory.commit c ys (stage.drop (sumLen c xs)) (Memory.commit c xs stage m) := by
  induction xs generalizing stage m with
  | nil => simp [Memory.commit, sumLen]
  | cons x xs ih => simp [Memory.commit, sumLen, ih, List.drop_drop]

/-- An entry after a commit is one of the entries before it, or one of the committed packets with its bytes. -/
theorem Memory.mem_commit {c : Catalogue} {atoms stage : List Byte} {m : Memory} {e : Nat × List Byte}
    (hlen : sumLen c atoms ≤ stage.length) (h : e ∈ Memory.commit c atoms stage m) :
    e ∈ m ∨ ∃ a ∈ atoms, e.1 = a.toNat ∧ e.2.length = byteLength c a := by
  induction atoms generalizing stage m with
  | nil => exact .inl h
  | cons a as ih =>
    have hs : byteLength c a + sumLen c as ≤ stage.length := by simpa [sumLen] using hlen
    rcases ih (by simp; omega) h with h | ⟨b, hb, hbe⟩
    · rcases Memory.mem_write h with rfl | h
      · exact .inr ⟨a, List.mem_cons_self, rfl, by simp; omega⟩
      · exact .inl h
    · exact .inr ⟨b, List.mem_cons_of_mem _ hb, hbe⟩

end Sys2Proof.Machine
end

