-- ==== Sys2Proof/Laws/State.lean ====
section
/-! SUPPORT. What each update of the state leaves in each field: one lemma per field per update, so that no later proof
unfolds a record update. -/
namespace Sys2Proof.Machine

/-! ### State.accept -/

@[simp] theorem State.accept_cfg (i : Instr) (s : State) : (s.accept i).cfg = s.cfg := rfl
@[simp] theorem State.accept_mode (i : Instr) (s : State) : (s.accept i).mode = s.mode := rfl
@[simp] theorem State.accept_sreq (i : Instr) (s : State) : (s.accept i).sreq = s.sreq := rfl
@[simp] theorem State.accept_cache (i : Instr) (s : State) : (s.accept i).cache = s.cache := rfl
@[simp] theorem State.accept_phase (i : Instr) (s : State) : (s.accept i).phase = .check := rfl
@[simp] theorem State.accept_cmd (i : Instr) (s : State) : (s.accept i).cmd = ⟨i.sel, i.operands⟩ := rfl
@[simp] theorem State.accept_res (i : Instr) (s : State) : (s.accept i).res = s.res := rfl
@[simp] theorem State.accept_work (i : Instr) (s : State) : (s.accept i).work = Work.cleared := rfl
@[simp] theorem State.accept_host (i : Instr) (s : State) : (s.accept i).host = s.host := rfl
@[simp] theorem State.accept_rx (i : Instr) (s : State) : (s.accept i).rx = s.rx := rfl
@[simp] theorem State.accept_txFates (i : Instr) (s : State) : (s.accept i).txFates = s.txFates := rfl
@[simp] theorem State.accept_txLog (i : Instr) (s : State) : (s.accept i).txLog = s.txLog := rfl

/-! ### State.raise -/

@[simp] theorem State.raise_cfg (st : Status) (sub : SubCause) (s : State) : (s.raise st sub).cfg = s.cfg := rfl
@[simp] theorem State.raise_mode (st : Status) (sub : SubCause) (s : State) : (s.raise st sub).mode = s.mode := rfl
@[simp] theorem State.raise_sreq (st : Status) (sub : SubCause) (s : State) : (s.raise st sub).sreq = s.sreq := rfl
@[simp] theorem State.raise_cache (st : Status) (sub : SubCause) (s : State) : (s.raise st sub).cache = s.cache := rfl
@[simp] theorem State.raise_phase (st : Status) (sub : SubCause) (s : State) : (s.raise st sub).phase = .idle := rfl
@[simp] theorem State.raise_cmd (st : Status) (sub : SubCause) (s : State) : (s.raise st sub).cmd = s.cmd := rfl
@[simp] theorem State.raise_res (st : Status) (sub : SubCause) (s : State) :
    (s.raise st sub).res = ⟨st, sub, .none⟩ := rfl
@[simp] theorem State.raise_work (st : Status) (sub : SubCause) (s : State) :
    (s.raise st sub).work = Work.cleared := rfl
@[simp] theorem State.raise_host (st : Status) (sub : SubCause) (s : State) : (s.raise st sub).host = s.host := rfl
@[simp] theorem State.raise_rx (st : Status) (sub : SubCause) (s : State) : (s.raise st sub).rx = s.rx := rfl
@[simp] theorem State.raise_txFates (st : Status) (sub : SubCause) (s : State) :
    (s.raise st sub).txFates = s.txFates := rfl
@[simp] theorem State.raise_txLog (st : Status) (sub : SubCause) (s : State) : (s.raise st sub).txLog = s.txLog := rfl

/-! ### State.finish -/

@[simp] theorem State.finish_cfg (d : ResData) (s : State) : (s.finish d).cfg = s.cfg := rfl
@[simp] theorem State.finish_mode (d : ResData) (s : State) : (s.finish d).mode = s.mode := rfl
@[simp] theorem State.finish_sreq (d : ResData) (s : State) : (s.finish d).sreq = s.sreq := rfl
@[simp] theorem State.finish_cache (d : ResData) (s : State) : (s.finish d).cache = s.cache := rfl
@[simp] theorem State.finish_phase (d : ResData) (s : State) : (s.finish d).phase = .idle := rfl
@[simp] theorem State.finish_cmd (d : ResData) (s : State) : (s.finish d).cmd = s.cmd := rfl
@[simp] theorem State.finish_res (d : ResData) (s : State) : (s.finish d).res = ⟨.ok, .none, d⟩ := rfl
@[simp] theorem State.finish_work (d : ResData) (s : State) : (s.finish d).work = Work.cleared := rfl
@[simp] theorem State.finish_host (d : ResData) (s : State) : (s.finish d).host = s.host := rfl
@[simp] theorem State.finish_rx (d : ResData) (s : State) : (s.finish d).rx = s.rx := rfl
@[simp] theorem State.finish_txFates (d : ResData) (s : State) : (s.finish d).txFates = s.txFates := rfl
@[simp] theorem State.finish_txLog (d : ResData) (s : State) : (s.finish d).txLog = s.txLog := rfl

/-! ### State.commitMode -/

@[simp] theorem State.commitMode_cfg (m : OperatingMode) (s : State) : (s.commitMode m).cfg = s.cfg := rfl
@[simp] theorem State.commitMode_mode (m : OperatingMode) (s : State) : (s.commitMode m).mode = m := rfl
@[simp] theorem State.commitMode_sreq (m : OperatingMode) (s : State) : (s.commitMode m).sreq = s.sreq := rfl
@[simp] theorem State.commitMode_cache (m : OperatingMode) (s : State) : (s.commitMode m).cache = s.cache := rfl
@[simp] theorem State.commitMode_phase (m : OperatingMode) (s : State) : (s.commitMode m).phase = .idle := rfl
@[simp] theorem State.commitMode_cmd (m : OperatingMode) (s : State) : (s.commitMode m).cmd = s.cmd := rfl
@[simp] theorem State.commitMode_res (m : OperatingMode) (s : State) : (s.commitMode m).res = ⟨.ok, .none, .none⟩ := rfl
@[simp] theorem State.commitMode_work (m : OperatingMode) (s : State) : (s.commitMode m).work = Work.cleared := rfl
@[simp] theorem State.commitMode_host (m : OperatingMode) (s : State) : (s.commitMode m).host = s.host := rfl
@[simp] theorem State.commitMode_rx (m : OperatingMode) (s : State) : (s.commitMode m).rx = s.rx := rfl
@[simp] theorem State.commitMode_txFates (m : OperatingMode) (s : State) : (s.commitMode m).txFates = s.txFates := rfl
@[simp] theorem State.commitMode_txLog (m : OperatingMode) (s : State) : (s.commitMode m).txLog = s.txLog := rfl

/-! ### State.commitSreq -/

@[simp] theorem State.commitSreq_cfg (ids : List Byte) (s : State) : (s.commitSreq ids).cfg = s.cfg := rfl
@[simp] theorem State.commitSreq_mode (ids : List Byte) (s : State) : (s.commitSreq ids).mode = s.mode := rfl
@[simp] theorem State.commitSreq_sreq (ids : List Byte) (s : State) : (s.commitSreq ids).sreq = ids := rfl
@[simp] theorem State.commitSreq_cache (ids : List Byte) (s : State) : (s.commitSreq ids).cache = s.cache := rfl
@[simp] theorem State.commitSreq_phase (ids : List Byte) (s : State) : (s.commitSreq ids).phase = .idle := rfl
@[simp] theorem State.commitSreq_cmd (ids : List Byte) (s : State) : (s.commitSreq ids).cmd = s.cmd := rfl
@[simp] theorem State.commitSreq_res (ids : List Byte) (s : State) : (s.commitSreq ids).res = ⟨.ok, .none, .none⟩ := rfl
@[simp] theorem State.commitSreq_work (ids : List Byte) (s : State) : (s.commitSreq ids).work = Work.cleared := rfl
@[simp] theorem State.commitSreq_host (ids : List Byte) (s : State) : (s.commitSreq ids).host = s.host := rfl
@[simp] theorem State.commitSreq_rx (ids : List Byte) (s : State) : (s.commitSreq ids).rx = s.rx := rfl
@[simp] theorem State.commitSreq_txFates (ids : List Byte) (s : State) : (s.commitSreq ids).txFates = s.txFates := rfl
@[simp] theorem State.commitSreq_txLog (ids : List Byte) (s : State) : (s.commitSreq ids).txLog = s.txLog := rfl

/-! ### State.startResp -/

@[simp] theorem State.startResp_cfg (alist : List Byte) (s : State) : (s.startResp alist).cfg = s.cfg := rfl
@[simp] theorem State.startResp_mode (alist : List Byte) (s : State) : (s.startResp alist).mode = s.mode := rfl
@[simp] theorem State.startResp_sreq (alist : List Byte) (s : State) : (s.startResp alist).sreq = s.sreq := rfl
@[simp] theorem State.startResp_cache (alist : List Byte) (s : State) : (s.startResp alist).cache = s.cache := rfl
@[simp] theorem State.startResp_phase (alist : List Byte) (s : State) : (s.startResp alist).phase = .resp := rfl
@[simp] theorem State.startResp_cmd (alist : List Byte) (s : State) : (s.startResp alist).cmd = s.cmd := rfl
@[simp] theorem State.startResp_res (alist : List Byte) (s : State) : (s.startResp alist).res = s.res := rfl
@[simp] theorem State.startResp_work (alist : List Byte) (s : State) :
    (s.startResp alist).work =
      { s.work with
        alist := alist, idx := 0, cnt := lenAt s.cfg.catalogue alist 0, stage := [] } := rfl
@[simp] theorem State.startResp_host (alist : List Byte) (s : State) : (s.startResp alist).host = s.host := rfl
@[simp] theorem State.startResp_rx (alist : List Byte) (s : State) : (s.startResp alist).rx = s.rx := rfl
@[simp] theorem State.startResp_txFates (alist : List Byte) (s : State) : (s.startResp alist).txFates = s.txFates := rfl
@[simp] theorem State.startResp_txLog (alist : List Byte) (s : State) : (s.startResp alist).txLog = s.txLog := rfl

/-! ### State.startHunt -/

@[simp] theorem State.startHunt_cfg (ids : List Byte) (s : State) : (s.startHunt ids).cfg = s.cfg := rfl
@[simp] theorem State.startHunt_mode (ids : List Byte) (s : State) : (s.startHunt ids).mode = s.mode := rfl
@[simp] theorem State.startHunt_sreq (ids : List Byte) (s : State) : (s.startHunt ids).sreq = s.sreq := rfl
@[simp] theorem State.startHunt_cache (ids : List Byte) (s : State) : (s.startHunt ids).cache = s.cache := rfl
@[simp] theorem State.startHunt_phase (ids : List Byte) (s : State) : (s.startHunt ids).phase = .hunt := rfl
@[simp] theorem State.startHunt_cmd (ids : List Byte) (s : State) : (s.startHunt ids).cmd = s.cmd := rfl
@[simp] theorem State.startHunt_res (ids : List Byte) (s : State) : (s.startHunt ids).res = s.res := rfl
@[simp] theorem State.startHunt_work (ids : List Byte) (s : State) :
    (s.startHunt ids).work =
      { s.work with
        alist := expandList s.cfg.catalogue ids, total := totalLen s.cfg.catalogue ids, disc := 0, idx := 0, stage := [] } := rfl
@[simp] theorem State.startHunt_host (ids : List Byte) (s : State) : (s.startHunt ids).host = s.host := rfl
@[simp] theorem State.startHunt_rx (ids : List Byte) (s : State) : (s.startHunt ids).rx = s.rx := rfl
@[simp] theorem State.startHunt_txFates (ids : List Byte) (s : State) : (s.startHunt ids).txFates = s.txFates := rfl
@[simp] theorem State.startHunt_txLog (ids : List Byte) (s : State) : (s.startHunt ids).txLog = s.txLog := rfl

/-! ### State.commitStage -/

@[simp] theorem State.commitStage_cfg (s : State) : (s.commitStage).cfg = s.cfg := rfl
@[simp] theorem State.commitStage_mode (s : State) : (s.commitStage).mode = s.mode := rfl
@[simp] theorem State.commitStage_sreq (s : State) : (s.commitStage).sreq = s.sreq := rfl
@[simp] theorem State.commitStage_cache (s : State) :
    (s.commitStage).cache = Memory.commit s.cfg.catalogue s.work.alist s.work.stage s.cache := rfl
@[simp] theorem State.commitStage_phase (s : State) : (s.commitStage).phase = .idle := rfl
@[simp] theorem State.commitStage_cmd (s : State) : (s.commitStage).cmd = s.cmd := rfl
@[simp] theorem State.commitStage_res (s : State) : (s.commitStage).res = ⟨.ok, .none, .bytes s.work.stage⟩ := rfl
@[simp] theorem State.commitStage_work (s : State) : (s.commitStage).work = Work.cleared := rfl
@[simp] theorem State.commitStage_host (s : State) : (s.commitStage).host = s.host := rfl
@[simp] theorem State.commitStage_rx (s : State) : (s.commitStage).rx = s.rx := rfl
@[simp] theorem State.commitStage_txFates (s : State) : (s.commitStage).txFates = s.txFates := rfl
@[simp] theorem State.commitStage_txLog (s : State) : (s.commitStage).txLog = s.txLog := rfl

/-! ### State.wrote -/

@[simp] theorem State.wrote_cfg (bs : List Byte) (fates : List Bool) (s : State) : (s.wrote bs fates).cfg = s.cfg := rfl
@[simp] theorem State.wrote_mode (bs : List Byte) (fates : List Bool) (s : State) :
    (s.wrote bs fates).mode = s.mode := rfl
@[simp] theorem State.wrote_sreq (bs : List Byte) (fates : List Bool) (s : State) :
    (s.wrote bs fates).sreq = s.sreq := rfl
@[simp] theorem State.wrote_cache (bs : List Byte) (fates : List Bool) (s : State) :
    (s.wrote bs fates).cache = s.cache := rfl
@[simp] theorem State.wrote_phase (bs : List Byte) (fates : List Bool) (s : State) :
    (s.wrote bs fates).phase = s.phase := rfl
@[simp] theorem State.wrote_cmd (bs : List Byte) (fates : List Bool) (s : State) : (s.wrote bs fates).cmd = s.cmd := rfl
@[simp] theorem State.wrote_res (bs : List Byte) (fates : List Bool) (s : State) : (s.wrote bs fates).res = s.res := rfl
@[simp] theorem State.wrote_work (bs : List Byte) (fates : List Bool) (s : State) :
    (s.wrote bs fates).work = { s.work with txi := s.work.txi + bs.length } := rfl
@[simp] theorem State.wrote_host (bs : List Byte) (fates : List Bool) (s : State) :
    (s.wrote bs fates).host = s.host := rfl
@[simp] theorem State.wrote_rx (bs : List Byte) (fates : List Bool) (s : State) : (s.wrote bs fates).rx = s.rx := rfl
@[simp] theorem State.wrote_txFates (bs : List Byte) (fates : List Bool) (s : State) :
    (s.wrote bs fates).txFates = fates := rfl
@[simp] theorem State.wrote_txLog (bs : List Byte) (fates : List Bool) (s : State) :
    (s.wrote bs fates).txLog = s.txLog ++ bs := rfl

/-! ### State.startEmit -/

@[simp] theorem State.startEmit_cfg (s : State) : (s.startEmit).cfg = s.cfg := rfl
@[simp] theorem State.startEmit_mode (s : State) : (s.startEmit).mode = s.mode := rfl
@[simp] theorem State.startEmit_sreq (s : State) : (s.startEmit).sreq = s.sreq := rfl
@[simp] theorem State.startEmit_cache (s : State) : (s.startEmit).cache = s.cache := rfl
@[simp] theorem State.startEmit_phase (s : State) : (s.startEmit).phase = .emit := rfl
@[simp] theorem State.startEmit_cmd (s : State) : (s.startEmit).cmd = s.cmd := rfl
@[simp] theorem State.startEmit_res (s : State) : (s.startEmit).res = s.res := rfl
@[simp] theorem State.startEmit_work (s : State) : (s.startEmit).work = s.work := rfl
@[simp] theorem State.startEmit_host (s : State) : (s.startEmit).host = s.host := rfl
@[simp] theorem State.startEmit_rx (s : State) : (s.startEmit).rx = s.rx := rfl
@[simp] theorem State.startEmit_txFates (s : State) : (s.startEmit).txFates = s.txFates := rfl
@[simp] theorem State.startEmit_txLog (s : State) : (s.startEmit).txLog = s.txLog := rfl

/-! ### State.withRx -/

@[simp] theorem State.withRx_cfg (items : List RxItem) (s : State) : (s.withRx items).cfg = s.cfg := rfl
@[simp] theorem State.withRx_mode (items : List RxItem) (s : State) : (s.withRx items).mode = s.mode := rfl
@[simp] theorem State.withRx_sreq (items : List RxItem) (s : State) : (s.withRx items).sreq = s.sreq := rfl
@[simp] theorem State.withRx_cache (items : List RxItem) (s : State) : (s.withRx items).cache = s.cache := rfl
@[simp] theorem State.withRx_phase (items : List RxItem) (s : State) : (s.withRx items).phase = s.phase := rfl
@[simp] theorem State.withRx_cmd (items : List RxItem) (s : State) : (s.withRx items).cmd = s.cmd := rfl
@[simp] theorem State.withRx_res (items : List RxItem) (s : State) : (s.withRx items).res = s.res := rfl
@[simp] theorem State.withRx_work (items : List RxItem) (s : State) : (s.withRx items).work = s.work := rfl
@[simp] theorem State.withRx_host (items : List RxItem) (s : State) : (s.withRx items).host = s.host := rfl
@[simp] theorem State.withRx_rx (items : List RxItem) (s : State) : (s.withRx items).rx = items := rfl
@[simp] theorem State.withRx_txFates (items : List RxItem) (s : State) : (s.withRx items).txFates = s.txFates := rfl
@[simp] theorem State.withRx_txLog (items : List RxItem) (s : State) : (s.withRx items).txLog = s.txLog := rfl

/-! ### State.issue -/

@[simp] theorem State.issue_cfg (r : List Byte) (s : State) : (s.issue r).cfg = s.cfg := rfl
@[simp] theorem State.issue_mode (r : List Byte) (s : State) : (s.issue r).mode = s.mode := rfl
@[simp] theorem State.issue_sreq (r : List Byte) (s : State) : (s.issue r).sreq = s.sreq := rfl
@[simp] theorem State.issue_cache (r : List Byte) (s : State) : (s.issue r).cache = s.cache := rfl
@[simp] theorem State.issue_phase (r : List Byte) (s : State) : (s.issue r).phase = s.phase := rfl
@[simp] theorem State.issue_cmd (r : List Byte) (s : State) : (s.issue r).cmd = s.cmd := rfl
@[simp] theorem State.issue_res (r : List Byte) (s : State) : (s.issue r).res = s.res := rfl
@[simp] theorem State.issue_work (r : List Byte) (s : State) : (s.issue r).work = s.work := rfl
@[simp] theorem State.issue_host (r : List Byte) (s : State) : (s.issue r).host = s.host ++ [r] := rfl
@[simp] theorem State.issue_rx (r : List Byte) (s : State) : (s.issue r).rx = s.rx := rfl
@[simp] theorem State.issue_txFates (r : List Byte) (s : State) : (s.issue r).txFates = s.txFates := rfl
@[simp] theorem State.issue_txLog (r : List Byte) (s : State) : (s.issue r).txLog = s.txLog := rfl

/-! ### State.deliver -/

@[simp] theorem State.deliver_cfg (items : List RxItem) (s : State) : (s.deliver items).cfg = s.cfg := rfl
@[simp] theorem State.deliver_mode (items : List RxItem) (s : State) : (s.deliver items).mode = s.mode := rfl
@[simp] theorem State.deliver_sreq (items : List RxItem) (s : State) : (s.deliver items).sreq = s.sreq := rfl
@[simp] theorem State.deliver_cache (items : List RxItem) (s : State) : (s.deliver items).cache = s.cache := rfl
@[simp] theorem State.deliver_phase (items : List RxItem) (s : State) : (s.deliver items).phase = s.phase := rfl
@[simp] theorem State.deliver_cmd (items : List RxItem) (s : State) : (s.deliver items).cmd = s.cmd := rfl
@[simp] theorem State.deliver_res (items : List RxItem) (s : State) : (s.deliver items).res = s.res := rfl
@[simp] theorem State.deliver_work (items : List RxItem) (s : State) : (s.deliver items).work = s.work := rfl
@[simp] theorem State.deliver_host (items : List RxItem) (s : State) : (s.deliver items).host = s.host := rfl
@[simp] theorem State.deliver_rx (items : List RxItem) (s : State) : (s.deliver items).rx = s.rx ++ items := rfl
@[simp] theorem State.deliver_txFates (items : List RxItem) (s : State) : (s.deliver items).txFates = s.txFates := rfl
@[simp] theorem State.deliver_txLog (items : List RxItem) (s : State) : (s.deliver items).txLog = s.txLog := rfl

/-! ### State.withFetchWord -/

@[simp] theorem State.withFetchWord_cfg (s : State) (nbits w : Nat) : (s.withFetchWord nbits w).cfg = s.cfg := rfl
@[simp] theorem State.withFetchWord_mode (s : State) (nbits w : Nat) : (s.withFetchWord nbits w).mode = s.mode := rfl
@[simp] theorem State.withFetchWord_sreq (s : State) (nbits w : Nat) : (s.withFetchWord nbits w).sreq = s.sreq := rfl
@[simp] theorem State.withFetchWord_cache (s : State) (nbits w : Nat) : (s.withFetchWord nbits w).cache = s.cache := rfl
@[simp] theorem State.withFetchWord_phase (s : State) (nbits w : Nat) : (s.withFetchWord nbits w).phase = .idle := rfl
@[simp] theorem State.withFetchWord_cmd (s : State) (nbits w : Nat) : (s.withFetchWord nbits w).cmd = s.cmd := rfl
@[simp] theorem State.withFetchWord_res (s : State) (nbits w : Nat) : (s.withFetchWord nbits w).res = s.res := rfl
@[simp] theorem State.withFetchWord_work (s : State) (nbits w : Nat) : (s.withFetchWord nbits w).work = s.work := rfl
@[simp] theorem State.withFetchWord_host (s : State) (nbits w : Nat) :
    (s.withFetchWord nbits w).host = tableRecord nbits w :: s.host := rfl
@[simp] theorem State.withFetchWord_rx (s : State) (nbits w : Nat) : (s.withFetchWord nbits w).rx = s.rx := rfl
@[simp] theorem State.withFetchWord_txFates (s : State) (nbits w : Nat) :
    (s.withFetchWord nbits w).txFates = s.txFates := rfl
@[simp] theorem State.withFetchWord_txLog (s : State) (nbits w : Nat) : (s.withFetchWord nbits w).txLog = s.txLog := rfl

end Sys2Proof.Machine
end

