-- ==== Sys2Proof/Laws/Ops.lean ====
section
/-! SUPPORT. The shared operations: for each, what it can do, said once. -/
namespace Sys2Proof.Machine

@[simp] theorem State.wrote_wrote (a b : List Byte) (f g : List Bool) (s : State) :
    (s.wrote a f).wrote b g = s.wrote (a ++ b) g := by
  simp [State.wrote, Nat.add_assoc]

/-- Writing no byte changes nothing. -/
theorem State.wrote_nil (s : State) : s.wrote [] s.txFates = s := by
  simp [State.wrote]

/-- A command that the transport takes whole (R180). -/
theorem State.txBytes_ok (bs : List Byte) {s : State} (h : s.writesOk bs.length) :
    s.txBytes bs = (true, s.wrote bs (s.txFates.drop bs.length)) := by
  induction bs generalizing s with
  | nil => simp [State.txBytes, State.wrote_nil]
  | cons b bs ih =>
    unfold State.txBytes State.txWrite
    cases hs : s.txFates with
    | nil =>
      have h2 : (s.wrote [b] []).writesOk bs.length := by simp [State.writesOk]
      simp [ih h2]
    | cons g gs =>
      obtain rfl : g = true := h g (by simp [hs])
      have h2 : (s.wrote [b] gs).writesOk bs.length := fun f hf => h f (by
        simp only [State.wrote_txFates] at hf
        simp [hs, hf])
      simp [ih h2]

/-- A command of which the transport takes `k` bytes and fails the next one (R233). -/
theorem State.txBytes_fail (bs : List Byte) {s : State} {k : Nat} {rest : List Bool} (hk : k < bs.length)
    (h : s.txFates = List.replicate k true ++ false :: rest) :
    s.txBytes bs = (false, s.wrote (bs.take k) rest) := by
  induction bs generalizing s k with
  | nil => simp at hk
  | cons b bs ih =>
    unfold State.txBytes State.txWrite
    cases k with
    | zero => simp [h]
    | succ k =>
      have hf : s.txFates = true :: (List.replicate k true ++ false :: rest) := by
        rw [h, List.replicate_succ, List.cons_append]
      rw [hf]
      simp [ih (s := s.wrote [b] _) (Nat.lt_of_succ_lt_succ hk) rfl]

/-- Everything writing a command can do: the transport takes all of it, or the bytes before the one it fails. -/
theorem State.txBytes_cases (bs : List Byte) (s : State) :
    (∃ fates, s.txBytes bs = (true, s.wrote bs fates)) ∨
    ∃ k fates, k < bs.length ∧ s.txBytes bs = (false, s.wrote (bs.take k) fates) := by
  induction bs generalizing s with
  | nil => exact .inl ⟨s.txFates, by simp [State.txBytes, State.wrote_nil]⟩
  | cons b bs ih =>
    unfold State.txBytes State.txWrite
    cases hf : s.txFates with
    | nil =>
      rcases ih (s.wrote [b] []) with ⟨fates, h⟩ | ⟨k, fates, hk, h⟩
      · exact .inl ⟨fates, by simp [h]⟩
      · exact .inr ⟨k + 1, fates, by simpa using hk, by simp [h]⟩
    | cons g gs =>
      cases g with
      | false => exact .inr ⟨0, gs, by simp, by simp⟩
      | true =>
        rcases ih (s.wrote [b] gs) with ⟨fates, h⟩ | ⟨k, fates, hk, h⟩
        · exact .inl ⟨fates, by simp [h]⟩
        · exact .inr ⟨k + 1, fates, by simpa using hk, by simp [h]⟩

/-- The state in which a wire operation goes on after its command has been sent. -/
def State.emitted (i : Instr) (bs : List Byte) (fates : List Bool) (s : State) : State :=
  { s with cmd := ⟨i.sel, i.operands⟩, phase := .emit, txLog := s.txLog ++ bs, txFates := fates,
           work := { Work.cleared with txi := bs.length } }

theorem State.accept_wrote (i : Instr) (bs : List Byte) (fates : List Bool) (s : State) :
    (s.accept i).startEmit.wrote bs fates = s.emitted i bs fates := by
  simp [State.wrote, State.emitted, State.accept, State.startEmit, Work.cleared]

/-- Everything a wire operation can do, if it answers a next state: it is refused with `INVALID_ARGUMENT` and nothing is
sent; or its whole command is sent and it goes on; or the transport fails and it has sent the bytes before. -/
theorem emitThen_next {i : Instr} {check : Bool} {after : State → State} {s t : State}
    (h : emitThen i check after s = .next t) :
    (check = false ∧ t = (s.accept i).raise .invalidArgument .none) ∨
    (check = true ∧ i.operands.all Operand.inRange = true ∧ ∃ bs, commandBytes s.cfg.cmdtab i = some bs ∧
      ((∃ fates, t = after (s.emitted i bs fates)) ∨
       ∃ k fates, k < bs.length ∧ t = (s.emitted i (bs.take k) fates).raise .transportFailure .none)) := by
  unfold emitThen at h
  split at h
  · next hc =>
    split at h
    · next hr =>
      split at h
      · next bs hb =>
        refine .inr ⟨hc, hr, bs, hb, ?_⟩
        rcases State.txBytes_cases bs (s.accept i).startEmit with ⟨fates, he⟩ | ⟨k, fates, hk, he⟩
        · rw [he, State.accept_wrote] at h
          exact .inl ⟨fates, by injection h with h; exact h.symm⟩
        · rw [he, State.accept_wrote] at h
          exact .inr ⟨k, fates, hk, by injection h with h; exact h.symm⟩
      · cases h
    · cases h
  · next hc =>
    injection h with h
    exact .inl ⟨by simpa using hc, h.symm⟩

/-- A wire operation whose check passes and whose command the transport takes (R180). -/
theorem emitThen_ok {i : Instr} {after : State → State} {s : State} {bs : List Byte}
    (hr : i.operands.all Operand.inRange = true) (hb : commandBytes s.cfg.cmdtab i = some bs)
    (hw : s.writesOk bs.length) :
    emitThen i true after s = .next (after (s.emitted i bs (s.txFates.drop bs.length))) := by
  have h := State.txBytes_ok bs (s := (s.accept i).startEmit) hw
  rw [State.accept_wrote] at h
  simp [emitThen, hr, hb, h]

/-- Everything an accessor can do, if it answers a next state (R220). -/
theorem accessThen_next {i : Instr} {id : Byte} {len : Nat} {use : List Byte → ResData} {s t : State}
    (h : accessThen i id len use s = .next t) :
    ((inCatalogue s.cfg.catalogue id = false ∨ isComposite s.cfg.catalogue id = true ∨
        byteLength s.cfg.catalogue id ≠ len) ∧ t = (s.accept i).raise .invalidArgument .none) ∨
    (isAtom s.cfg.catalogue id ∧ byteLength s.cfg.catalogue id = len ∧
      ((s.cache.read id.toNat = none ∧ t = (s.accept i).raise .notPopulated .none) ∨
       ∃ d, s.cache.read id.toNat = some d ∧ d.length = len ∧ t = (s.accept i).finish (use d))) := by
  unfold accessThen at h
  split at h
  · next hc =>
    refine .inl ⟨?_, by injection h with h; exact h.symm⟩
    rcases Bool.or_eq_true_iff.1 hc with hc | hc
    · exact .inl (by simpa using hc)
    · exact .inr (.inl hc)
  · next hc =>
    have ha : isAtom s.cfg.catalogue id := by simpa [isAtom] using hc
    split at h
    · next hl => exact .inl ⟨.inr (.inr hl), by injection h with h; exact h.symm⟩
    · next hl =>
      refine .inr ⟨ha, not_not.1 hl, ?_⟩
      split at h
      · next hn => exact .inl ⟨hn, by injection h with h; exact h.symm⟩
      · next d hd =>
        split at h
        · next hdl => exact .inr ⟨d, hd, hdl, by injection h with h; exact h.symm⟩
        · cases h

/-! ### Reading from RX -/

/-- `sameBeyondRx` is kept along a chain of updates. -/
theorem State.sameBeyondRx.trans {s t u : State} (h1 : s.sameBeyondRx t) (h2 : t.sameBeyondRx u) :
    s.sameBeyondRx u := by
  obtain ⟨a1, a2, a3, a4, a5, a6, a7⟩ := h1
  obtain ⟨b1, b2, b3, b4, b5, b6, b7⟩ := h2
  exact ⟨b1.trans a1, b2.trans a2, b3.trans a3, b4.trans a4, b5.trans a5, b6.trans a6, b7.trans a7⟩

@[simp] theorem State.sameBeyondRx_refl (s : State) : s.sameBeyondRx s := ⟨rfl, rfl, rfl, rfl, rfl, rfl, rfl⟩

/-- What `settle` can do: nothing, give up the hunt, or commit a complete response. -/
theorem State.settle_cases (s : State) :
    s.settle = s ∨ (s.phase = .hunt ∧ s.work.disc = s.work.total ∧ s.settle = s.raise .protocolDesync .none) ∨
    (s.phase = .resp ∧ s.work.alist.length ≤ s.work.idx ∧ s.settle = s.commitStage) := by
  unfold State.settle
  split
  · next hp =>
    split
    · next hd => exact .inr (.inl ⟨hp, hd, rfl⟩)
    · exact .inl rfl
  · next hp =>
    split
    · next hd => exact .inr (.inr ⟨hp, hd, rfl⟩)
    · exact .inl rfl
  all_goals exact .inl rfl

theorem State.settle_frame (s : State) : s.sameBeyondRx s.settle ∧ s.settle.rx = s.rx := by
  rcases State.settle_cases s with h | ⟨-, -, h⟩ | ⟨-, -, h⟩ <;> rw [h] <;> simp [State.sameBeyondRx]

theorem State.onItem_frame (item : RxItem) (s : State) :
    s.sameBeyondRx (s.onItem item) ∧ (s.onItem item).rx = s.rx := by
  cases item with
  | fail => simp [State.onItem, State.sameBeyondRx]
  | byte b =>
    simp only [State.onItem]
    split
    · simp [State.onResp, State.sameBeyondRx]
    · simp only [State.onHunt]; split_ifs <;> simp [State.sameBeyondRx]
    · simp only [State.onFlen]; split_ifs <;> simp [State.sameBeyondRx]
    · simp only [State.onPid]; split
      · split_ifs <;> simp [State.sameBeyondRx]
      · simp [State.sameBeyondRx]
    · simp only [State.onPdata]; split_ifs <;> simp [State.sameBeyondRx]
    · simp only [State.onFchk]; split_ifs <;> simp [State.sameBeyondRx]
    all_goals simp

theorem State.rxExhausted_frame (s : State) : s.sameBeyondRx s.rxExhausted ∧ s.rxExhausted.rx = [] := by
  unfold State.rxExhausted
  split <;> simp [State.sameBeyondRx]

/-- Reading from RX leaves alone all but the cache, PHASE, RES, the working registers and RX. -/
theorem State.pump_frame (items : List RxItem) (s : State) : s.sameBeyondRx (State.pump items s) := by
  induction items generalizing s with
  | nil =>
    simp only [State.pump]
    split_ifs
    · exact (State.settle_frame s).1.trans (State.rxExhausted_frame _).1
    · exact (State.settle_frame s).1
  | cons item items ih =>
    simp only [State.pump]
    split_ifs
    · exact ((State.settle_frame s).1.trans (State.onItem_frame item _).1).trans (ih _)
    · exact (State.settle_frame s).1

/-- R23: reading consumes items from the front, each once, and leaves the rest. -/
theorem State.pump_rx (items : List RxItem) (s : State) :
    ∃ taken, items = taken ++ (State.pump items s).rx := by
  induction items generalizing s with
  | nil =>
    refine ⟨[], ?_⟩
    simp only [State.pump]
    split_ifs
    · rw [(State.rxExhausted_frame _).2]; rfl
    · rfl
  | cons item items ih =>
    simp only [State.pump]
    split_ifs
    · obtain ⟨taken, h⟩ := ih (s.settle.onItem item)
      exact ⟨item :: taken, by rw [List.cons_append, ← h]⟩
    · exact ⟨[], rfl⟩

/-- An item that arrives leaves the block in a phase it waits in, or idle. -/
theorem State.onItem_atRest (item : RxItem) {s : State} (h : s.phase.waits = true) : (s.onItem item).atRest := by
  cases item with
  | fail => simp [State.onItem, State.atRest]
  | byte b =>
    simp only [State.onItem]
    split
    · next hp => simp [State.onResp, State.atRest, hp, Phase.waits]
    · next hp => simp only [State.onHunt]; split_ifs <;> simp [State.atRest, hp, Phase.waits]
    · next hp => simp only [State.onFlen]; split_ifs <;> simp [State.atRest, Phase.waits]
    · next hp =>
      simp only [State.onPid]; split
      · split_ifs <;> simp [State.atRest, Phase.waits]
      · simp [State.atRest]
    · next hp => simp only [State.onPdata]; split_ifs <;> simp [State.atRest, hp, Phase.waits]
    · next hp => simp only [State.onFchk]; split_ifs <;> simp [State.atRest]
    all_goals next hp => simp [hp, Phase.waits] at h

theorem State.settle_atRest {s : State} (h : s.atRest) : s.settle.atRest := by
  rcases State.settle_cases s with e | ⟨-, -, e⟩ | ⟨-, -, e⟩ <;> rw [e]
  · exact h
  · exact .inl rfl
  · exact .inl rfl

/-- R18, R23: reading ends idle, or waiting with RX empty and no time-out. -/
theorem State.pump_phase (items : List RxItem) {s : State} (h : s.atRest) :
    (State.pump items s).phase = .idle ∨
    ((State.pump items s).phase.waits = true ∧ (State.pump items s).rx = [] ∧ s.cfg.rxTimeout = none) := by
  induction items generalizing s with
  | nil =>
    simp only [State.pump]
    split_ifs with hw
    · unfold State.rxExhausted
      rw [(State.settle_frame s).1.1]
      split
      · next ht => exact .inr ⟨hw, rfl, ht⟩
      · exact .inl rfl
    · exact .inl ((State.settle_atRest h).resolve_right hw)
  | cons item items ih =>
    simp only [State.pump]
    split_ifs with hw
    · have := ih (State.onItem_atRest item hw)
      rwa [(State.onItem_frame item _).1.1, (State.settle_frame s).1.1] at this
    · exact .inl ((State.settle_atRest h).resolve_right hw)

/-- What the block does before the next byte does not depend on what RX holds. -/
theorem State.settle_withRx (items : List RxItem) (s : State) : (s.withRx items).settle = s.settle.withRx items := by
  unfold State.settle
  simp only [State.withRx_phase, State.withRx_work]
  cases s.phase <;> simp only [apply_ite (State.withRx items)] <;> rfl

theorem State.frameIds_withRx (items : List RxItem) (s : State) : (s.withRx items).frameIds = s.frameIds := rfl

/-- What the block does with an item does not depend on what RX holds after it. -/
theorem State.onItem_withRx (items : List RxItem) (item : RxItem) (s : State) :
    (s.withRx items).onItem item = (s.onItem item).withRx items := by
  cases item with
  | fail => rfl
  | byte b =>
    simp only [State.onItem, State.withRx_phase]
    cases s.phase <;> simp only
    case hunt => simp only [State.onHunt, apply_ite (State.withRx items)]; rfl
    case flen =>
      simp only [State.onFlen, apply_ite (State.withRx items)]
      rfl
    case pid =>
      simp only [State.onPid, State.withRx_work, State.frameIds_withRx]
      cases s.frameIds[s.work.idx]? <;> simp only [apply_ite (State.withRx items)] <;> rfl
    case pdata =>
      simp only [State.onPdata, apply_ite (State.withRx items)]
      rfl
    case fchk => simp only [State.onFchk, apply_ite (State.withRx items)]; rfl
    all_goals rfl

/-- Reading reads the items it is given; what RX held before does not matter. -/
theorem State.pump_withRx (items rx : List RxItem) (s : State) :
    State.pump items (s.withRx rx) = State.pump items s := by
  induction items generalizing s with
  | nil =>
    simp only [State.pump, State.settle_withRx, State.withRx_phase]
    split_ifs
    · simp only [State.rxExhausted, State.withRx_cfg]
      split <;> rfl
    · rfl
  | cons item items ih =>
    simp only [State.pump, State.settle_withRx, State.withRx_phase, State.onItem_withRx, ih]
    split_ifs <;> rfl

theorem State.settle_settle (s : State) : s.settle.settle = s.settle := by
  rcases State.settle_cases s with h | ⟨-, -, h⟩ | ⟨-, -, h⟩ <;> rw [h]
  · exact h
  · rfl
  · rfl

theorem State.pump_settle (items : List RxItem) (s : State) : State.pump items s.settle = State.pump items s := by
  cases items <;> simp only [State.pump, State.settle_settle]

/-- R23: without a time-out, items read in two pieces are read as in one; if the first piece ends the operation, the
second stays on RX. -/
theorem State.pump_append (xs ys : List RxItem) {s : State} (ht : s.cfg.rxTimeout = none) :
    State.pump (xs ++ ys) s =
      if (State.pump xs s).phase.waits then State.pump ys (State.pump xs s)
      else (State.pump xs s).withRx ((State.pump xs s).rx ++ ys) := by
  induction xs generalizing s with
  | nil =>
    have he : s.settle.rxExhausted = s.settle.withRx [] := by
      unfold State.rxExhausted
      rw [(State.settle_frame s).1.1, ht]
    by_cases hw : s.settle.phase.waits = true
    · simp only [List.nil_append, State.pump, hw, if_true, he, State.withRx_phase, State.pump_withRx,
        State.pump_settle]
    · simp only [List.nil_append, State.pump, hw, if_false, State.withRx_phase, State.withRx_rx, Bool.false_eq_true]
      cases ys <;> simp only [State.pump, hw, Bool.false_eq_true, if_false] <;> rfl
  | cons x xs ih =>
    by_cases hw : s.settle.phase.waits = true
    · simp only [List.cons_append, State.pump, hw, if_true]
      exact ih (by rw [(State.onItem_frame x _).1.1, (State.settle_frame s).1.1, ht])
    · simp only [List.cons_append, State.pump, hw, if_false, State.withRx_phase, State.withRx_rx, Bool.false_eq_true]
      rfl

end Sys2Proof.Machine
end

