-- ==== Sys2Proof/Laws/PerInstr.lean ====
section
/-! SUPPORT. What holds of every operation as syntax, one lemma for each constructor. -/
namespace Sys2Proof.Laws.WireOperands

/-- R71, R80: an operation whose selector has bit 7 set is in the list of wire operations, with the operand types it
has there; and no other operation is. -/
def Statement (i : Instr) : Prop :=
  i.isWire = true ↔ (i.sel, i.operands.map Operand.kind) ∈ wireOperands

theorem enc16 (v : Int) : Statement (.enc16 v) := by
  simp only [Statement, Instr.isWire, Instr.sel, Instr.operands, List.map, Operand.kind]; decide

theorem dec16 (h l : Byte) : Statement (.dec16 h l) := by
  simp only [Statement, Instr.isWire, Instr.sel, Instr.operands, List.map, Operand.kind]; decide

theorem readFrame (ids : List Byte) : Statement (.readFrame ids) := by
  simp only [Statement, Instr.isWire, Instr.sel, Instr.operands, List.map, Operand.kind]; decide

theorem getBit (id mask : Byte) : Statement (.getBit id mask) := by
  simp only [Statement, Instr.isWire, Instr.sel, Instr.operands, List.map, Operand.kind]; decide

theorem getU8 (id : Byte) : Statement (.getU8 id) := by
  simp only [Statement, Instr.isWire, Instr.sel, Instr.operands, List.map, Operand.kind]; decide

theorem getS16 (id : Byte) : Statement (.getS16 id) := by
  simp only [Statement, Instr.isWire, Instr.sel, Instr.operands, List.map, Operand.kind]; decide

theorem getU16 (id : Byte) : Statement (.getU16 id) := by
  simp only [Statement, Instr.isWire, Instr.sel, Instr.operands, List.map, Operand.kind]; decide

theorem modePassive : Statement .modePassive := by
  simp only [Statement, Instr.isWire, Instr.sel, Instr.operands, List.map]; decide

theorem setBaud (code : BitVec 4) : Statement (.setBaud code) := by
  simp only [Statement, Instr.isWire, Instr.sel, Instr.operands, List.map, Operand.kind]; decide

theorem modeSafe : Statement .modeSafe := by
  simp only [Statement, Instr.isWire, Instr.sel, Instr.operands, List.map]; decide

theorem modeFull : Statement .modeFull := by
  simp only [Statement, Instr.isWire, Instr.sel, Instr.operands, List.map]; decide

theorem drive (velocity radius : Int) : Statement (.drive velocity radius) := by
  simp only [Statement, Instr.isWire, Instr.sel, Instr.operands, List.map, Operand.kind]; decide

theorem lsdFull (bits : Byte) : Statement (.lsdFull bits) := by
  simp only [Statement, Instr.isWire, Instr.sel, Instr.operands, List.map, Operand.kind]; decide

theorem leds (flags color intensity : Byte) : Statement (.leds flags color intensity) := by
  simp only [Statement, Instr.isWire, Instr.sel, Instr.operands, List.map, Operand.kind]; decide

theorem storeSong (song : Byte) (notes : List (Byte × Byte)) : Statement (.storeSong song notes) := by
  simp only [Statement, Instr.isWire, Instr.sel, Instr.operands, List.map, Operand.kind]; decide

theorem playSong (song : Byte) : Statement (.playSong song) := by
  simp only [Statement, Instr.isWire, Instr.sel, Instr.operands, List.map, Operand.kind]; decide

theorem readPacket (id : Byte) : Statement (.readPacket id) := by
  simp only [Statement, Instr.isWire, Instr.sel, Instr.operands, List.map, Operand.kind]; decide

theorem lsdPwm (d2 d1 d0 : Byte) : Statement (.lsdPwm d2 d1 d0) := by
  simp only [Statement, Instr.isWire, Instr.sel, Instr.operands, List.map, Operand.kind]; decide

theorem driveDirect (right left : Int) : Statement (.driveDirect right left) := by
  simp only [Statement, Instr.isWire, Instr.sel, Instr.operands, List.map, Operand.kind]; decide

theorem drivePwm (right left : Int) : Statement (.drivePwm right left) := by
  simp only [Statement, Instr.isWire, Instr.sel, Instr.operands, List.map, Operand.kind]; decide

theorem digitalOut (bits : Byte) : Statement (.digitalOut bits) := by
  simp only [Statement, Instr.isWire, Instr.sel, Instr.operands, List.map, Operand.kind]; decide

theorem streamStart (ids : List Byte) : Statement (.streamStart ids) := by
  simp only [Statement, Instr.isWire, Instr.sel, Instr.operands, List.map, Operand.kind]; decide

theorem readPacketList (ids : List Byte) : Statement (.readPacketList ids) := by
  simp only [Statement, Instr.isWire, Instr.sel, Instr.operands, List.map, Operand.kind]; decide

theorem streamPauseResume (flag : Byte) : Statement (.streamPauseResume flag) := by
  simp only [Statement, Instr.isWire, Instr.sel, Instr.operands, List.map, Operand.kind]; decide

theorem sendIr (value : Byte) : Statement (.sendIr value) := by
  simp only [Statement, Instr.isWire, Instr.sel, Instr.operands, List.map, Operand.kind]; decide

theorem storeScript (script : List Byte) : Statement (.storeScript script) := by
  simp only [Statement, Instr.isWire, Instr.sel, Instr.operands, List.map, Operand.kind]; decide

theorem runScript : Statement .runScript := by
  simp only [Statement, Instr.isWire, Instr.sel, Instr.operands, List.map]; decide

theorem readScript : Statement .readScript := by
  simp only [Statement, Instr.isWire, Instr.sel, Instr.operands, List.map]; decide

theorem waitTime (time : Byte) : Statement (.waitTime time) := by
  simp only [Statement, Instr.isWire, Instr.sel, Instr.operands, List.map, Operand.kind]; decide

theorem waitDistance (distance : Int) : Statement (.waitDistance distance) := by
  simp only [Statement, Instr.isWire, Instr.sel, Instr.operands, List.map, Operand.kind]; decide

theorem waitAngle (angle : Int) : Statement (.waitAngle angle) := by
  simp only [Statement, Instr.isWire, Instr.sel, Instr.operands, List.map, Operand.kind]; decide

theorem waitEvent (event : Byte) : Statement (.waitEvent event) := by
  simp only [Statement, Instr.isWire, Instr.sel, Instr.operands, List.map, Operand.kind]; decide

theorem modeOff : Statement .modeOff := by
  simp only [Statement, Instr.isWire, Instr.sel, Instr.operands, List.map]; decide

end Sys2Proof.Laws.WireOperands
end

