-- ==== Sys2Proof/Laws/Safety.lean ====
section
/-! SUPPORT. What the words that claims use leave in each field, one lemma per field, what a failed read does to a
waiting block, and which packets the readSensorPacket family has. -/
namespace Sys2Proof.Machine

/-! ### State.ended -/

@[simp] theorem State.ended_cfg (i : Instr) (data : ResData) (s : State) : (s.ended i data).cfg = s.cfg := rfl
@[simp] theorem State.ended_mode (i : Instr) (data : ResData) (s : State) : (s.ended i data).mode = s.mode := rfl
@[simp] theorem State.ended_sreq (i : Instr) (data : ResData) (s : State) : (s.ended i data).sreq = s.sreq := rfl
@[simp] theorem State.ended_cache (i : Instr) (data : ResData) (s : State) : (s.ended i data).cache = s.cache := rfl
@[simp] theorem State.ended_phase (i : Instr) (data : ResData) (s : State) : (s.ended i data).phase = .idle := rfl
@[simp] theorem State.ended_cmd (i : Instr) (data : ResData) (s : State) :
    (s.ended i data).cmd = ⟨i.sel, i.operands⟩ := rfl
@[simp] theorem State.ended_res (i : Instr) (data : ResData) (s : State) :
    (s.ended i data).res = ⟨.ok, .none, data⟩ := rfl
@[simp] theorem State.ended_work (i : Instr) (data : ResData) (s : State) : (s.ended i data).work = s.work := rfl
@[simp] theorem State.ended_host (i : Instr) (data : ResData) (s : State) : (s.ended i data).host = s.host := rfl
@[simp] theorem State.ended_rx (i : Instr) (data : ResData) (s : State) : (s.ended i data).rx = s.rx := rfl
@[simp] theorem State.ended_txFates (i : Instr) (data : ResData) (s : State) :
    (s.ended i data).txFates = s.txFates := rfl
@[simp] theorem State.ended_txLog (i : Instr) (data : ResData) (s : State) : (s.ended i data).txLog = s.txLog := rfl

/-! ### State.failed -/

@[simp] theorem State.failed_cfg (i : Instr) (status : Status) (sub : SubCause) (s : State) :
    (s.failed i status sub).cfg = s.cfg := rfl
@[simp] theorem State.failed_mode (i : Instr) (status : Status) (sub : SubCause) (s : State) :
    (s.failed i status sub).mode = s.mode := rfl
@[simp] theorem State.failed_sreq (i : Instr) (status : Status) (sub : SubCause) (s : State) :
    (s.failed i status sub).sreq = s.sreq := rfl
@[simp] theorem State.failed_cache (i : Instr) (status : Status) (sub : SubCause) (s : State) :
    (s.failed i status sub).cache = s.cache := rfl
@[simp] theorem State.failed_phase (i : Instr) (status : Status) (sub : SubCause) (s : State) :
    (s.failed i status sub).phase = .idle := rfl
@[simp] theorem State.failed_cmd (i : Instr) (status : Status) (sub : SubCause) (s : State) :
    (s.failed i status sub).cmd = ⟨i.sel, i.operands⟩ := rfl
@[simp] theorem State.failed_res (i : Instr) (status : Status) (sub : SubCause) (s : State) :
    (s.failed i status sub).res = ⟨status, sub, .none⟩ := rfl
@[simp] theorem State.failed_work (i : Instr) (status : Status) (sub : SubCause) (s : State) :
    (s.failed i status sub).work = s.work := rfl
@[simp] theorem State.failed_host (i : Instr) (status : Status) (sub : SubCause) (s : State) :
    (s.failed i status sub).host = s.host := rfl
@[simp] theorem State.failed_rx (i : Instr) (status : Status) (sub : SubCause) (s : State) :
    (s.failed i status sub).rx = s.rx := rfl
@[simp] theorem State.failed_txFates (i : Instr) (status : Status) (sub : SubCause) (s : State) :
    (s.failed i status sub).txFates = s.txFates := rfl
@[simp] theorem State.failed_txLog (i : Instr) (status : Status) (sub : SubCause) (s : State) :
    (s.failed i status sub).txLog = s.txLog := rfl

/-! ### State.sent -/

@[simp] theorem State.sent_cfg (bs : List Byte) (s : State) : (s.sent bs).cfg = s.cfg := rfl
@[simp] theorem State.sent_mode (bs : List Byte) (s : State) : (s.sent bs).mode = s.mode := rfl
@[simp] theorem State.sent_sreq (bs : List Byte) (s : State) : (s.sent bs).sreq = s.sreq := rfl
@[simp] theorem State.sent_cache (bs : List Byte) (s : State) : (s.sent bs).cache = s.cache := rfl
@[simp] theorem State.sent_phase (bs : List Byte) (s : State) : (s.sent bs).phase = s.phase := rfl
@[simp] theorem State.sent_cmd (bs : List Byte) (s : State) : (s.sent bs).cmd = s.cmd := rfl
@[simp] theorem State.sent_res (bs : List Byte) (s : State) : (s.sent bs).res = s.res := rfl
@[simp] theorem State.sent_work (bs : List Byte) (s : State) : (s.sent bs).work = s.work := rfl
@[simp] theorem State.sent_host (bs : List Byte) (s : State) : (s.sent bs).host = s.host := rfl
@[simp] theorem State.sent_rx (bs : List Byte) (s : State) : (s.sent bs).rx = s.rx := rfl
@[simp] theorem State.sent_txFates (bs : List Byte) (s : State) : (s.sent bs).txFates = s.txFates.drop bs.length := rfl
@[simp] theorem State.sent_txLog (bs : List Byte) (s : State) : (s.sent bs).txLog = s.txLog ++ bs := rfl

/-! ### State.effectOf -/

@[simp] theorem State.effectOf_cfg (i : Instr) (s : State) : (s.effectOf i).cfg = s.cfg := rfl
@[simp] theorem State.effectOf_mode (i : Instr) (s : State) :
    (s.effectOf i).mode = if i.setsMode = true ∧ s.res.status = .ok then s.mode else .off := rfl
@[simp] theorem State.effectOf_sreq (i : Instr) (s : State) :
    (s.effectOf i).sreq = if i.setsSreq = true ∧ s.res.status = .ok then s.sreq else [] := rfl
@[simp] theorem State.effectOf_cache (i : Instr) (s : State) : (s.effectOf i).cache = s.cache := rfl
@[simp] theorem State.effectOf_phase (i : Instr) (s : State) : (s.effectOf i).phase = s.phase := rfl
@[simp] theorem State.effectOf_cmd (i : Instr) (s : State) : (s.effectOf i).cmd = s.cmd := rfl
@[simp] theorem State.effectOf_res (i : Instr) (s : State) :
    (s.effectOf i).res = if s.phase = .idle then s.res else ⟨.ok, .none, .none⟩ := rfl
@[simp] theorem State.effectOf_work (i : Instr) (s : State) : (s.effectOf i).work = s.work := rfl
@[simp] theorem State.effectOf_host (i : Instr) (s : State) : (s.effectOf i).host = s.host := rfl
@[simp] theorem State.effectOf_rx (i : Instr) (s : State) : (s.effectOf i).rx = s.rx := rfl
@[simp] theorem State.effectOf_txFates (i : Instr) (s : State) : (s.effectOf i).txFates = s.txFates := rfl
@[simp] theorem State.effectOf_txLog (i : Instr) (s : State) : (s.effectOf i).txLog = s.txLog := rfl

/-! ### A failed read -/

/-- An idle block reads nothing from RX. -/
theorem State.pump_idle (items : List RxItem) {s : State} (h : s.phase = .idle) :
    State.pump items s = s.withRx items := by
  have hs : s.settle = s := by unfold State.settle; rw [h]
  cases items <;> simp [State.pump, hs, h, Phase.waits]

/-- R233: a block that waits and is given a failure ends with `TRANSPORT_FAILURE`, and what follows stays on RX. -/
theorem State.pump_fail (rest : List RxItem) {s : State} (h : s.settle.phase.waits = true) :
    State.pump (.fail :: rest) s = (s.settle.raise .transportFailure .none).withRx rest := by
  rw [State.pump, if_pos h]
  exact State.pump_idle rest rfl

/-! ### The readSensorPacket family -/

/-- R131: for the ids that are their packets' ordinals the family is READ_PACKET. -/
theorem readSensorPacket_ordinal {id : Byte} (h : id.toNat ≤ lastOrdinalId) :
    readSensorPacket id = some (.readPacket id) := if_pos h

/-- R131: for every other id it has no member. -/
theorem readSensorPacket_none {id : Byte} (h : lastOrdinalId < id.toNat) : readSensorPacket id = none :=
  if_neg (Nat.not_le.2 h)

end Sys2Proof.Machine
end

