-- ==== Sys2Proof/Tests/Slice0.lean ====
section
/-! SUPPORT. Small tests, and for every statement with hypotheses a state and operands that meet them. The expected
values are those of spec/95_test_vectors.md (T-…, S…, P…) or worked out by hand from the rule named. -/
namespace Sys2Proof.Tests

open Sys2Proof.Machine

/-! ### Well-formedness: an ill-formed operand of each kind is refused, the largest well-formed one is not -/

theorem test_wf_s16_upper : (Instr.enc16 (2 ^ 31)).wf 32 = false ∧ (Instr.enc16 (2 ^ 31 - 1)).wf 32 = true := by decide

theorem test_wf_s16_lower : (Instr.enc16 (-2 ^ 31 - 1)).wf 32 = false ∧ (Instr.enc16 (-2 ^ 31)).wf 32 = true := by decide

theorem test_wf_second_s16 : (Instr.drive 0 (2 ^ 31)).wf 32 = false ∧ (Instr.driveDirect (2 ^ 31) 0).wf 32 = false ∧
    (Instr.drivePwm 0 (-2 ^ 31 - 1)).wf 32 = false := by decide

theorem test_wf_wait : (Instr.waitDistance (2 ^ 16)).wf 17 = false ∧ (Instr.waitAngle (-2 ^ 16)).wf 17 = true := by
  decide

theorem test_wf_list : (Instr.readPacketList (List.replicate 256 7)).wf 32 = false ∧
    (Instr.readPacketList (List.replicate 255 7)).wf 32 = true := by decide +kernel

theorem test_wf_lists : (Instr.readFrame (List.replicate 256 7)).wf 32 = false ∧
    (Instr.streamStart (List.replicate 256 7)).wf 32 = false ∧
    (Instr.storeScript (List.replicate 256 7)).wf 32 = false := by decide +kernel

theorem test_wf_pairs : (Instr.storeSong 0 (List.replicate 256 (60, 16))).wf 32 = false := by decide +kernel

theorem test_operand_wf : Operand.wf 32 (.s16 (2 ^ 31)) = false ∧ Operand.wf 32 (.u8 255) = true ∧
    Operand.wf 32 (.list (List.replicate 256 0)) = false ∧
    Operand.wf 32 (.pairs (List.replicate 256 (0, 0))) = false := by decide +kernel

/-! T-K5: the catalogues that are not well formed. -/

theorem test_catalogue_cycle : catalogueWf [⟨0, 2, some (0, 1)⟩, ⟨1, 2, none⟩] = false := by decide

theorem test_catalogue_sum : catalogueWf [⟨0, 3, some (1, 2)⟩, ⟨1, 1, none⟩, ⟨2, 1, none⟩] = false := by decide

theorem test_catalogue_hole : catalogueWf [⟨0, 2, some (1, 3)⟩, ⟨1, 1, none⟩, ⟨3, 1, none⟩] = false := by decide

theorem test_catalogue_twice : catalogueWf [⟨0, 1, none⟩, ⟨0, 1, none⟩] = false := by decide

theorem test_catalogue_empty_packet : catalogueWf [⟨0, 0, none⟩] = false := by decide

theorem test_catalogue_wide_id : catalogueWf [⟨256, 1, none⟩] = false := by decide

theorem test_table_misfit : cmdTabWf [] = false ∧ cmdTabWf (plainRow 0x8D [.s16 0] :: defaultCmdTab) = false := by decide

/-! ### Decoding: a record of every operation, its selector and operand bytes written out from R80 and log entry 1 -/

theorem test_decode_enc16 : decode 32 [0x01, 0xFF, 0xFF, 0xFF, 0x38] = .ok (.enc16 (-200), []) := by decide

theorem test_decode_dec16 : decode 32 [0x02, 0x12, 0x34] = .ok (.dec16 0x12 0x34, []) := by decide

theorem test_decode_read_frame : decode 32 [0x10, 2, 29, 13] = .ok (.readFrame [29, 13], []) := by decide

theorem test_decode_get_bit : decode 32 [0x20, 18, 4] = .ok (.getBit 18 4, []) := by decide

theorem test_decode_get_u8 : decode 32 [0x21, 17] = .ok (.getU8 17, []) := by decide

theorem test_decode_get_s16 : decode 32 [0x22, 19] = .ok (.getS16 19, []) := by decide

theorem test_decode_get_u16 : decode 32 [0x23, 29] = .ok (.getU16 29, []) := by decide

theorem test_decode_mode_passive : decode 32 [128] = .ok (.modePassive, []) := by decide

theorem test_decode_set_baud : decode 32 [129, 11] = .ok (.setBaud 11, []) := by decide

theorem test_decode_mode_safe : decode 32 [131] = .ok (.modeSafe, []) := by decide

theorem test_decode_mode_full : decode 32 [132] = .ok (.modeFull, []) := by decide

theorem test_decode_drive : decode 32 [137, 0xFF, 0xFF, 0xFF, 0x38, 0, 0, 0x01, 0xF4] = .ok (.drive (-200) 500, []) := by decide

theorem test_decode_lsd_full : decode 32 [138, 7] = .ok (.lsdFull 7, []) := by decide

theorem test_decode_leds : decode 32 [139, 0x0A, 1, 128] = .ok (.leds 0x0A 1 128, []) := by decide

theorem test_decode_store_song : decode 32 [140, 3, 2, 60, 32, 62, 16] = .ok (.storeSong 3 [(60, 32), (62, 16)], []) := by decide

theorem test_decode_play_song : decode 32 [141, 3] = .ok (.playSong 3, []) := by decide

theorem test_decode_read_packet : decode 32 [142, 2] = .ok (.readPacket 2, []) := by decide

theorem test_decode_lsd_pwm : decode 32 [144, 128, 64, 1] = .ok (.lsdPwm 128 64 1, []) := by decide

theorem test_decode_drive_direct : decode 32 [145, 0, 0, 0, 200, 0xFF, 0xFF, 0xFF, 0x38] = .ok (.driveDirect 200 (-200), []) := by decide

theorem test_decode_drive_pwm : decode 32 [146, 0, 0, 0, 255, 0xFF, 0xFF, 0xFF, 0x01] = .ok (.drivePwm 255 (-255), []) := by decide

theorem test_decode_digital_out : decode 32 [147, 5] = .ok (.digitalOut 5, []) := by decide

theorem test_decode_stream_start : decode 32 [148, 2, 29, 13] = .ok (.streamStart [29, 13], []) := by decide

theorem test_decode_read_packet_list : decode 32 [149, 2, 19, 20] = .ok (.readPacketList [19, 20], []) := by decide

theorem test_decode_stream_pause_resume : decode 32 [150, 1] = .ok (.streamPauseResume 1, []) := by decide

theorem test_decode_send_ir : decode 32 [151, 0xA5] = .ok (.sendIr 0xA5, []) := by decide

theorem test_decode_store_script : decode 32 [152, 3, 137, 1, 44] = .ok (.storeScript [137, 1, 44], []) := by decide

theorem test_decode_run_script : decode 32 [153] = .ok (.runScript, []) := by decide

theorem test_decode_read_script : decode 32 [154] = .ok (.readScript, []) := by decide

theorem test_decode_wait_time : decode 32 [155, 10] = .ok (.waitTime 10, []) := by decide

theorem test_decode_wait_distance : decode 32 [156, 0, 0, 0x01, 0x90] = .ok (.waitDistance 400, []) := by decide

theorem test_decode_wait_angle : decode 32 [157, 0xFF, 0xFF, 0xFF, 0xA6] = .ok (.waitAngle (-90), []) := by decide

theorem test_decode_wait_event : decode 32 [158, 251] = .ok (.waitEvent 251, []) := by decide

theorem test_decode_mode_off : decode 32 [173] = .ok (.modeOff, []) := by decide

theorem test_decode_out_of_range : decode 32 [0x01, 0, 0, 0x80, 0] = .ok (.enc16 32768, []) := by decide

theorem test_decode_left_over : decode 32 [0x8D, 3, 9, 9] = .ok (.playSong 3, [9, 9]) := by decide

theorem test_decode_unknown : decode 32 [0x82, 1] = .error (.unknownSelector 0x82) := by decide

theorem test_decode_truncated : decode 32 [0x95, 2, 19] = .error (.truncated 0x95) ∧
    decode 32 [0x01, 0, 0, 0] = .error (.truncated 0x01) ∧ decode 32 [] = .error .emptyRecord := by decide

theorem test_decode_wide : decode 32 [0x81, 16] = .error (.baudTooWide 0x81) ∧
    decode 17 [0x9C, 2, 0, 0] = .error (.s16TooWide 0x9C) := by decide

/-- A row of the opcode table is 8 bits; the operand bytes above it are zero. -/
theorem test_table_word : decodeTableWord 8 0x89 = some (.drive 0 0) ∧ decodeTableWord 8 0x82 = none := by
  decide +kernel

/-! ### Executing -/

/-- The state after reset with `items` on RX. -/
def onRx (items : List RxItem) : State := State.reset.withRx items

/-- The state after reset under V1. -/
def resetV1 : State := State.resetWith (defaultConfig .v1)

/-- The state after reset with a frame id byte for each requested id. -/
def requested (items : List RxItem) : State :=
  (State.resetWith { defaultConfig .v2 with frameIdMode := .requested }).withRx items

/-- The state after reset with a time-out. -/
def timed (items : List RxItem) : State :=
  (State.resetWith { defaultConfig .v2 with rxTimeout := some 1 }).withRx items

/-- The state after reset with a transport that fails the writes that are false in `fates`. -/
def failing (fates : List Bool) : State := State.reset.wrote [] fates

/-- The cache that the accessor vectors of section 2.7 start from. -/
def filled : State :=
  { State.reset with cache := [(17, [0xFF]), (18, [0x05]), (19, [0xFF, 0x9C]), (22, [0x80, 0x00])] }

/-- The result, the bytes sent and the number of RX items left. -/
def seen : Result → Option (ResLatch × List Byte × Nat)
  | .next s => some (s.res, s.txLog, s.rx.length)
  | .fault _ => none
  | .refused _ => none

/-- The registers and the phase after an operation. -/
def regs : Result → Option (OperatingMode × List Byte × Phase)
  | .next s => some (s.mode, s.sreq, s.phase)
  | .fault _ => none
  | .refused _ => none

/-- The cache after an operation. -/
def cached : Result → Option Memory
  | .next s => some s.cache
  | .fault _ => none
  | .refused _ => none

/-- OK with `data`, `sent` on TX, `left` items on RX. -/
def okWith (data : ResData) (sent : List Byte) (left : Nat) : Option (ResLatch × List Byte × Nat) :=
  some (⟨.ok, .none, data⟩, sent, left)

/-- An error, `sent` on TX, `left` items on RX. -/
def errWith (st : Status) (sub : SubCause) (sent : List Byte) (left : Nat) : Option (ResLatch × List Byte × Nat) :=
  some (⟨st, sub, .none⟩, sent, left)

/-- The frame F of T-S2, for the ids 29 and 13. -/
def frameF : List Byte := [0x13, 0x05, 0x1D, 0x02, 0x19, 0x0D, 0x00, 0xA3]

/-- T-C1. -/
theorem test_enc16 :
    seen (exec (.enc16 (-32768)) State.reset) = okWith (.pair 0x80 0x00) [] 0 ∧
    seen (exec (.enc16 (-200)) State.reset) = okWith (.pair 0xFF 0x38) [] 0 := by decide

/-- T-C3. -/
theorem test_enc16_out_of_range :
    exec (.enc16 32768) State.reset = .refused .s16OutOfRange ∧
    exec (.enc16 (-32769)) State.reset = .refused .s16OutOfRange := by exact ⟨rfl, rfl⟩

/-- T-C1. -/
theorem test_dec16 :
    seen (exec (.dec16 0x80 0x00) State.reset) = okWith (.int (-32768)) [] 0 ∧
    seen (exec (.dec16 0x00 0xFF) State.reset) = okWith (.int 255) [] 0 := by decide

/-- T-C2. -/
theorem test_decu16 :
    decu16 0x80 0x00 = 32768 ∧ decu16 0xFF 0xFF = 65535 ∧ decu16 0x02 0x19 = 537 := by decide

/-- T-M1. -/
theorem test_mode_passive :
    seen (exec .modePassive State.reset) = okWith .none [0x80] 0 ∧
    regs (exec .modePassive State.reset) = some (.passive, [], .idle) := by decide

/-- T-M2. -/
theorem test_mode_safe :
    seen (exec .modeSafe State.reset) = okWith .none [0x83] 0 ∧
    regs (exec .modeSafe State.reset) = some (.safe, [], .idle) := by decide

/-- T-M7, from reset. -/
theorem test_mode_safe_fails :
    seen (exec .modeSafe (failing [false])) = errWith .transportFailure .none [] 0 ∧
    regs (exec .modeSafe (failing [false])) = some (.off, [], .idle) := by decide

/-- S8. -/
theorem test_mode_full :
    seen (exec .modeFull State.reset) = okWith .none [0x84] 0 ∧
    regs (exec .modeFull State.reset) = some (.full, [], .idle) := by decide

/-- T-M5. -/
theorem test_mode_off :
    seen (exec .modeOff State.reset) = okWith .none [0xAD] 0 ∧
    regs (exec .modeOff (State.reset.commitMode .full)) = some (.off, [], .idle) := by decide

/-- T-M6. -/
theorem test_mode_off_v1 :
    seen (exec .modeOff resetV1) = errWith .invalidArgument .none [] 0 ∧
    regs (exec .modeOff (resetV1.commitMode .full)) = some (.full, [], .idle) := by decide

/-- T-W2, T-W3. -/
theorem test_set_baud :
    seen (exec (.setBaud 11) State.reset) = okWith .none [0x81, 0x0B] 0 ∧
    seen (exec (.setBaud 12) State.reset) = errWith .invalidArgument .none [] 0 := by decide

/-- T-W5, T-W8. -/
theorem test_drive :
    seen (exec (.drive (-200) 500) State.reset) = okWith .none [0x89, 0xFF, 0x38, 0x01, 0xF4] 0 ∧
    exec (.drive 300 32768) State.reset = .refused .s16OutOfRange := by exact ⟨by decide, rfl⟩

/-- T-W9. -/
theorem test_drive_fails :
    seen (exec (.drive (-200) 500) (failing [true, true, false])) =
      errWith .transportFailure .none [0x89, 0xFF] 0 := by decide

/-- T-W10. -/
theorem test_drive_direct :
    seen (exec (.driveDirect 200 (-200)) State.reset) = okWith .none [0x91, 0x00, 0xC8, 0xFF, 0x38] 0 := by decide

/-- T-W11. -/
theorem test_drive_pwm :
    seen (exec (.drivePwm 255 (-255)) State.reset) = okWith .none [0x92, 0x00, 0xFF, 0xFF, 0x01] 0 := by decide

/-- T-W12. -/
theorem test_leds :
    seen (exec (.leds 0x0A 0 128) State.reset) = okWith .none [0x8B, 0x0A, 0x00, 0x80] 0 := by decide

/-- T-W13. -/
theorem test_lsd_pwm :
    seen (exec (.lsdPwm 128 64 0) State.reset) = okWith .none [0x90, 0x80, 0x40, 0x00] 0 := by decide

/-- T-W14. -/
theorem test_lsd_full :
    seen (exec (.lsdFull 7) State.reset) = okWith .none [0x8A, 0x07] 0 := by decide

/-- T-W15. -/
theorem test_digital_out :
    seen (exec (.digitalOut 5) State.reset) = okWith .none [0x93, 0x05] 0 := by decide

/-- T-W16. -/
theorem test_send_ir :
    seen (exec (.sendIr 0xA5) State.reset) = okWith .none [0x97, 0xA5] 0 := by decide

/-- T-W17. -/
theorem test_play_song :
    seen (exec (.playSong 0) State.reset) = okWith .none [0x8D, 0x00] 0 := by decide

/-- T-W18. -/
theorem test_store_song :
    seen (exec (.storeSong 0 [(60, 32), (62, 32)]) State.reset) =
      okWith .none [0x8C, 0x00, 0x02, 0x3C, 0x20, 0x3E, 0x20] 0 := by decide

/-- T-W21. -/
theorem test_store_song_17 :
    seen (exec (.storeSong 1 (List.replicate 17 (60, 16))) State.reset) = errWith .invalidArgument .none [] 0 := by decide

/-- T-W24. -/
theorem test_store_script :
    seen (exec (.storeScript (List.replicate 100 0)) State.reset) =
      okWith .none ([0x98, 0x64] ++ List.replicate 100 0) 0 := by decide +kernel

/-- T-W25. -/
theorem test_store_script_101 :
    seen (exec (.storeScript (List.replicate 101 0)) State.reset) = errWith .invalidArgument .none [] 0 := by decide +kernel

/-- T-W26. -/
theorem test_run_script :
    seen (exec .runScript State.reset) = okWith .none [0x99] 0 := by decide

/-- T-W27. -/
theorem test_read_script :
    seen (exec .readScript (onRx (rxBytes [0xEE]))) = okWith .none [0x9A] 1 := by decide

/-- T-W28. -/
theorem test_wait_time :
    seen (exec (.waitTime 10) State.reset) = okWith .none [0x9B, 0x0A] 0 := by decide

/-- T-W30. -/
theorem test_wait_distance :
    seen (exec (.waitDistance (-100)) State.reset) = okWith .none [0x9C, 0xFF, 0x9C] 0 := by decide

/-- T-W31. -/
theorem test_wait_angle :
    seen (exec (.waitAngle (-90)) State.reset) = okWith .none [0x9D, 0xFF, 0xA6] 0 := by decide

/-- T-W34. -/
theorem test_wait_event :
    seen (exec (.waitEvent 251) State.reset) = okWith .none [0x9E, 0xFB] 0 := by decide

/-- The six bytes of the source's scenario (S7). -/
def sixBytes : List Byte := [0xFF, 0x01, 0x00, 0x64, 0x12, 0x34]

/-- T-R2. -/
theorem test_read_packet :
    seen (exec (.readPacket 2) (onRx (rxBytes sixBytes))) = okWith (.bytes sixBytes) [0x8E, 0x02] 0 ∧
    cached (exec (.readPacket 2) (onRx (rxBytes sixBytes))) =
      some [(17, [0xFF]), (18, [0x01]), (19, [0x00, 0x64]), (20, [0x12, 0x34])] := by decide +kernel

/-- T-R12. -/
theorem test_read_packet_stale :
    seen (exec (.readPacket 18) (onRx (rxBytes [0x77, 0x04]))) = okWith (.bytes [0x77]) [0x8E, 0x12] 1 := by decide +kernel

/-- T-R3. -/
theorem test_read_packet_list :
    seen (exec (.readPacketList [18, 2]) (onRx (rxBytes (0x04 :: sixBytes)))) =
      okWith (.bytes (0x04 :: sixBytes)) [0x95, 0x02, 0x12, 0x02] 0 ∧
    cached (exec (.readPacketList [18, 2]) (onRx (rxBytes (0x04 :: sixBytes)))) =
      some [(17, [0xFF]), (18, [0x01]), (19, [0x00, 0x64]), (20, [0x12, 0x34])] := by decide +kernel

/-- T-R9, with a list. -/
theorem test_read_packet_list_fails :
    seen (exec (.readPacketList [2]) (onRx (rxBytes [0xFF, 0x01] ++ [.fail]))) =
      errWith .transportFailure .none [0x95, 0x01, 0x02] 0 ∧
    cached (exec (.readPacketList [2]) (onRx (rxBytes [0xFF, 0x01] ++ [.fail]))) = some [] := by decide +kernel

/-- T-S1. -/
theorem test_stream_start :
    seen (exec (.streamStart [29, 13]) State.reset) = okWith .none [0x94, 0x02, 0x1D, 0x0D] 0 ∧
    regs (exec (.streamStart [29, 13]) State.reset) = some (.off, [29, 13], .idle) := by decide +kernel

/-- T-S1. -/
theorem test_stream_start_fails :
    seen (exec (.streamStart [29, 13]) (failing [true, true, false])) =
      errWith .transportFailure .none [0x94, 0x02] 0 ∧
    regs (exec (.streamStart [29, 13]) ((failing [true, true, false]).commitSreq [2])) = some (.off, [2], .idle) := by decide +kernel

/-- T-S1. -/
theorem test_stream_pause_resume :
    seen (exec (.streamPauseResume 7) State.reset) = okWith .none [0x96, 0x07] 0 ∧
    regs (exec streamPause (State.reset.commitSreq [29, 13])) = some (.off, [29, 13], .idle) := by decide

/-- P3, step 3. -/
theorem test_read_frame :
    seen (exec (.readFrame [29, 13]) (onRx (rxBytes ([0x55, 0xAA] ++ frameF)))) =
      okWith (.bytes [0x02, 0x19, 0x00]) [] 0 ∧
    cached (exec (.readFrame [29, 13]) (onRx (rxBytes ([0x55, 0xAA] ++ frameF)))) =
      some [(13, [0x00]), (29, [0x02, 0x19])] := by decide +kernel

/-- T-S4 c. -/
theorem test_read_frame_requested :
    seen (exec (.readFrame [2]) (requested (rxBytes ([0x13, 0x07, 0x02] ++ sixBytes ++ [0x3A])))) =
      okWith (.bytes sixBytes) [] 0 := by decide +kernel

/-- T-A3, T-A4. -/
theorem test_get_bit :
    seen (exec (.getBit 18 0x04) filled) = okWith (.bool true) [] 0 ∧
    seen (exec (.getBit 18 0x02) filled) = okWith (.bool false) [] 0 := by decide +kernel

/-- T-A5, T-A6. -/
theorem test_get_bit_mask :
    seen (exec (.getBit 18 0x05) filled) = errWith .invalidArgument .none [] 0 ∧
    seen (exec (.getBit 18 0x00) filled) = errWith .invalidArgument .none [] 0 := by decide +kernel

/-- T-A1, T-A11. -/
theorem test_get_u8 :
    seen (exec (.getU8 17) filled) = okWith (.int 255) [] 0 ∧
    seen (exec (.getU8 19) filled) = errWith .invalidArgument .none [] 0 := by decide +kernel

/-- T-A7, T-A13. -/
theorem test_get_s16 :
    seen (exec (.getS16 19) filled) = okWith (.int (-100)) [] 0 ∧
    seen (exec (.getS16 20) filled) = errWith .notPopulated .none [] 0 := by decide +kernel

/-- T-A8, T-A10. -/
theorem test_get_u16 :
    seen (exec (.getU16 19) filled) = okWith (.int 65436) [] 0 ∧
    seen (exec (.getU16 22) filled) = okWith (.int 32768) [] 0 := by decide +kernel
/-! ### Witnesses: a state and operands that meet the hypotheses of a statement, at the boundaries of each clause -/

theorem reset_wf : State.reset.cfg.wf = true := by decide +kernel

/-- The block waiting for three more bytes of group 2. -/
def waiting : State :=
  { State.reset with
    phase := .resp
    work := { Work.cleared with alist := [17, 18, 19, 20], idx := 2, cnt := 1, stage := [0xFF, 0x01, 0x00] } }

theorem witness_DecodeOfEncodeIsTheOperation : 1 ≤ 17 ∧
    (Instr.drive (-2 ^ 16) (2 ^ 16 - 1)).wf 17 = true ∧ (Instr.streamStart (List.replicate 255 6)).wf 17 = true := by
  decide +kernel

theorem witness_DecodedBytesAreTheEncoding :
    1 ≤ 20 ∧ decode 20 [0x01, 0x0F, 0xFF, 0xFF, 7] = .ok (.enc16 (-1), [7]) := by decide

theorem witness_StepRunsTheDecodedOperation :
    (State.reset.issue [0x80]).cfg.wf = true ∧ (State.reset.issue [0x80]).phase = .idle ∧
      (State.reset.issue [0x80]).host = [0x80] :: [] ∧ decode 32 [0x80] = .ok (.modePassive, []) :=
  ⟨reset_wf, rfl, rfl, by decide⟩

theorem witness_UnknownSelectorIsInvalidArgument :
    (State.reset.issue [0xFF]).cfg.wf = true ∧ (State.reset.issue [0xFF]).phase = .idle ∧
      (State.reset.issue [0xFF]).host = [0xFF] :: [] ∧
      (0xFF : Byte).toNat ∉ [1, 2, 16, 32, 33, 34, 35, 128, 129, 131, 132, 137, 138, 139, 140, 141, 142, 144, 145,
        146, 147, 148, 149, 150, 151, 152, 153, 154, 155, 156, 157, 158, 173] ∧ resetV1.cfg.pver = .v1 :=
  ⟨reset_wf, rfl, rfl, by decide, rfl⟩

theorem witness_IdleBlockWaitsForARecord :
    State.reset.cfg.wf = true ∧ State.reset.phase = .idle ∧ State.reset.host = [] := ⟨reset_wf, rfl, rfl⟩

theorem step_waiting (s : State) (h : s.cfg.wf = true) (hw : s.phase.waits = true) : step s = .next s.runRx := by
  have hp : s.phase ≠ .idle := fun hp => by rw [hp] at hw; cases hw
  simp [step, resume, h, hw, hp]

theorem witness_BusyBlockAcceptsNothing :
    (waiting.issue [0x80]).phase ≠ .idle ∧ step (waiting.issue [0x80]) = .next (waiting.issue [0x80]).runRx :=
  ⟨by decide, step_waiting _ reset_wf rfl⟩

theorem witness_IllFormedInstanceDoesNotRun :
    catalogueWf (State.resetWith { defaultConfig .v2 with catalogue := [⟨0, 0, none⟩] }).cfg.catalogue = false := by
  decide

theorem witness_CodecFunctionsAsDefined :
    enc16 0 = some (0x00, 0x00) ∧ enc16 32767 = some (0x7F, 0xFF) ∧ enc16 (-32768) = some (0x80, 0x00) ∧
      enc16 (-1) = some (0xFF, 0xFF) ∧ enc16 32768 = none ∧ enc16 (-32769) = none ∧
      dec16 0x7F 0xFF = 32767 ∧ dec16 0x80 0x00 = -32768 := by decide

theorem witness_CodecRoundTrip :
    dec16 0x80 0x00 = -32768 ∧ enc16 (-32768) = some (0x80, 0x00) ∧ dec16 0x7F 0xFF = 32767 := by decide

theorem witness_CodecOperationsComplete : (-32768 : Int) ≤ -32768 ∧ (-32768 : Int) ≤ 32767 ∧ (32767 : Int) ≤ 32767 := by
  decide

theorem witness_OutOfRangeSignedOperandIsRefused :
    ((-32769 : Int) < -32768 ∨ (32767 : Int) < -32769) ∧ ((32768 : Int) < -32768 ∨ (32767 : Int) < 32768) := by decide

theorem witness_ModeOperationsSendAndRecord :
    State.reset.cfg.cmdtab = defaultCmdTab ∧ State.reset.writesOk 1 ∧
      (failing [false]).cfg.cmdtab = defaultCmdTab ∧ (failing [false]).txFates = false :: [] :=
  ⟨rfl, by decide, rfl, rfl⟩

theorem witness_ModeOffDependsOnTheVersion :
    State.reset.cfg.cmdtab = defaultCmdTab ∧ State.reset.cfg.pver = .v2 ∧ State.reset.writesOk 1 ∧
      (failing [false]).cfg.pver = .v2 ∧ (failing [false]).txFates = false :: [] ∧ resetV1.cfg.pver = .v1 :=
  ⟨rfl, rfl, by decide, rfl, rfl, rfl⟩

theorem witness_OneByteCommandsComplete :
    State.reset.cfg.cmdtab = defaultCmdTab ∧ (failing [true, true, false]).writesOk 2 ∧ (11 : BitVec 4).toNat ≤ 11 :=
  ⟨rfl, by decide, by decide⟩

theorem witness_BareAndThreeByteCommandsComplete :
    (failing [true, false]).writesOk 1 ∧ (failing [true, true, true, true, false]).writesOk 4 ∧
      (failing [true, true, true, true, false]).cfg.cmdtab = defaultCmdTab :=
  ⟨by decide, by decide, rfl⟩

theorem witness_SignedFieldCommandsComplete :
    State.reset.cfg.cmdtab = defaultCmdTab ∧ State.reset.writesOk 5 ∧ enc16 (-32768) = some (0x80, 0x00) ∧
      enc16 32767 = some (0x7F, 0xFF) ∧ (failing [true, true, true, false]).cfg.cmdtab = defaultCmdTab ∧
      (failing [true, true, true, false]).writesOk 3 :=
  ⟨rfl, by decide, by decide, by decide, rfl, by decide⟩

theorem witness_StoreCommandsComplete :
    State.reset.cfg.cmdtab = defaultCmdTab ∧ (List.replicate 16 ((60 : Byte), (16 : Byte))).length ≤ 16 ∧
      State.reset.writesOk (3 + 2 * 16) ∧ (List.replicate 100 (0 : Byte)).length ≤ 100 ∧
      State.reset.writesOk (2 + 100) :=
  ⟨rfl, by decide, by decide, by decide, by decide⟩

theorem witness_RefusedOperandsCostNothing :
    State.reset.accepts (.setBaud 12) = false ∧ State.reset.accepts (.storeSong 0 (List.replicate 17 (60, 16))) = false ∧
      State.reset.accepts (.storeScript (List.replicate 101 0)) = false ∧ resetV1.accepts .modeOff = false ∧
      State.reset.accepts (.readPacketList [19, 99]) = false ∧ State.reset.accepts (.getBit 18 3) = false ∧
      State.reset.accepts (.getU8 2) = false ∧ State.reset.accepts (.getS16 17) = false := by decide +kernel

theorem witness_AcceptedOperandsAreNotInvalid :
    State.reset.accepts (.dec16 0 0) = true ∧
      exec (.dec16 0 0) State.reset = .next (State.reset.ended (.dec16 0 0) (.int 0)) ∧
      (State.reset.ended (.dec16 0 0) (.int 0)).phase = .idle := ⟨rfl, rfl, rfl⟩

theorem witness_FailedWriteLeavesAPrefixSent :
    (Instr.readPacket 2).isWire = true ∧ (failing [true, false]).accepts (.readPacket 2) = true ∧
      (Instr.readPacket 2).operands.all Operand.inRange = true ∧
      commandBytes (failing [true, false]).cfg.cmdtab (.readPacket 2) = some [142, 2] ∧
      0 < ([142, 2] : List Byte).length ∧ (failing [false]).txFates = List.replicate 0 true ++ false :: [] ∧
      1 < ([142, 2] : List Byte).length ∧ (failing [true, false]).txFates = List.replicate 1 true ++ false :: [] := by
  decide +kernel

theorem witness_ErrorsLeaveRegistersAndCache :
    step (resetV1.issue [173]) = .next (resetV1.failed .modeOff .invalidArgument .none) ∧
      (resetV1.failed .modeOff .invalidArgument .none).res.status ≠ .ok ∧
      step waiting = .next waiting.runRx ∧ waiting.runRx.phase ≠ .idle := by
  refine ⟨?_, by decide, step_waiting _ reset_wf rfl, by decide⟩
  have h : resetV1.cfg.wf = true := by decide +kernel
  have hd : decode (resetV1.issue [173]).cfg.valueW [173] = .ok (.modeOff, []) := by decide
  have ht : (resetV1.issue [173]).takeRecord = .run .modeOff resetV1 := by rfl
  simp only [step, State.issue_cfg, h, if_true, State.issue_phase, ht]
  rfl

theorem witness_StatusesByOperation :
    exec .modeSafe (failing [false]) =
      .next ({ failing [false] with txFates := [] }.failed .modeSafe .transportFailure .none) ∧
    exec (.readFrame []) State.reset = .next (State.reset.failed (.readFrame []) .protocolDesync .none) ∧
    exec (.setBaud 12) State.reset = .next (State.reset.failed (.setBaud 12) .invalidArgument .none) ∧
    exec (.setBaud 11) State.reset = .next ((State.reset.sent [129, 11]).ended (.setBaud 11) .none) :=
  ⟨rfl, rfl, rfl, rfl⟩

theorem witness_ExpansionFollowsTheRanges :
    catalogueWf State.reset.cfg.catalogue = true ∧
      descriptor State.reset.cfg.catalogue (2 : Byte).toNat = some ⟨2, 6, some (17, 20)⟩ ∧
      descriptor State.reset.cfg.catalogue (19 : Byte).toNat = some ⟨19, 2, none⟩ := by decide +kernel

theorem witness_PacketLengthIsTheSumOfItsAtoms :
    catalogueWf State.reset.cfg.catalogue = true ∧ inCatalogue State.reset.cfg.catalogue 100 = true := by decide +kernel

theorem witness_DefaultTotalsFitFifteenBits :
    (List.replicate 255 (100 : Byte)).length ≤ 255 ∧
      totalLen (defaultCatalogue .v2) (List.replicate 2 100) = 160 := by decide +kernel

theorem witness_CommitKeepsTheLastOccurrence :
    ([18, 17, 18] : List Byte)[2]? = some 18 ∧ (18 : Byte) ∉ ([18, 17, 18] : List Byte).drop 3 ∧
      (17 : Byte) ∉ ([18, 17, 18] : List Byte).drop 2 ∧ (2 : Byte) ∉ ([18, 17, 18] : List Byte) := by decide

theorem witness_ReadPacketCompletes :
    (onRx (rxBytes sixBytes)).cfg.wf = true ∧ (onRx (rxBytes sixBytes)).cfg.cmdtab = defaultCmdTab ∧
      inCatalogue (onRx (rxBytes sixBytes)).cfg.catalogue 2 = true ∧ (onRx (rxBytes sixBytes)).writesOk 2 ∧
      (onRx (rxBytes sixBytes)).rx = rxBytes sixBytes ++ [] ∧
      sixBytes.length = byteLength (onRx (rxBytes sixBytes)).cfg.catalogue 2 := by decide +kernel

theorem witness_ReadPacketListCompletes :
    (onRx (rxBytes sixBytes)).cfg.wf = true ∧ (onRx (rxBytes sixBytes)).cfg.cmdtab = defaultCmdTab ∧
      ([2] : List Byte).all (inCatalogue (onRx (rxBytes sixBytes)).cfg.catalogue) = true ∧
      (onRx (rxBytes sixBytes)).writesOk (2 + ([2] : List Byte).length) ∧
      (onRx (rxBytes sixBytes)).rx = rxBytes sixBytes ++ [] ∧
      sixBytes.length = totalLen (onRx (rxBytes sixBytes)).cfg.catalogue [2] ∧
      ([] : List Byte).length = totalLen State.reset.cfg.catalogue [] := by decide +kernel

/-- The state after READ_PACKET 18 of the byte `b`, with `left` on RX after it and `sent` on TX. -/
def after18 (b : Byte) (sent left : List Byte) : State :=
  { State.reset with rx := rxBytes left, cache := [(18, [b])], txLog := sent }.ended (.readPacket 18) (.bytes [b])

theorem witness_ListReadsAgreeWithSingleReads :
    exec (.readPacket 18) (onRx (rxBytes [4, 5])) = .next (after18 4 [142, 18] [5]) ∧
      exec (.readPacket 18) (after18 4 [142, 18] [5]) = .next (after18 5 [142, 18, 142, 18] []) ∧
      (after18 4 [142, 18] [5]).phase = .idle ∧ (after18 5 [142, 18, 142, 18] []).phase = .idle ∧
      (after18 4 [142, 18] [5]).res = ⟨.ok, .none, .bytes [4]⟩ ∧
      (after18 5 [142, 18, 142, 18] []).res = ⟨.ok, .none, .bytes [5]⟩ ∧
      (onRx (rxBytes [4, 5])).cfg.wf = true ∧ (onRx (rxBytes [4, 5])).cfg.cmdtab = defaultCmdTab ∧
      (onRx (rxBytes [4, 5])).writesOk 4 :=
  ⟨rfl, rfl, rfl, rfl, rfl, rfl, reset_wf, rfl, by decide⟩

theorem witness_ListReadsAgreeWithSingleReads_group :
    (onRx (rxBytes sixBytes)).cfg.wf = true ∧ (onRx (rxBytes sixBytes)).cfg.cmdtab = defaultCmdTab ∧
      descriptor (onRx (rxBytes sixBytes)).cfg.catalogue (2 : Byte).toNat = some ⟨2, 6, some (17, 20)⟩ ∧
      (onRx (rxBytes sixBytes)).writesOk (2 + (rangeIds 17 20).length) ∧
      seen (exec (.readPacket 2) (onRx (rxBytes sixBytes))) = okWith (.bytes sixBytes) [142, 2] 0 ∧
      regs (exec (.readPacket 2) (onRx (rxBytes sixBytes))) = some (.off, [], .idle) := by decide +kernel

theorem witness_ShortResponseWaits :
    (onRx (rxBytes (sixBytes.take 5))).cfg.wf = true ∧
      (onRx (rxBytes (sixBytes.take 5))).cfg.cmdtab = defaultCmdTab ∧
      (onRx (rxBytes (sixBytes.take 5))).cfg.rxTimeout = none ∧
      inCatalogue (onRx (rxBytes (sixBytes.take 5))).cfg.catalogue 2 = true ∧
      (onRx (rxBytes (sixBytes.take 5))).writesOk 2 ∧
      (onRx (rxBytes (sixBytes.take 5))).rx = rxBytes (sixBytes.take 5) ∧
      (sixBytes.take 5).length < byteLength State.reset.cfg.catalogue 2 ∧
      ([] : List Byte).length < byteLength State.reset.cfg.catalogue 2 := by decide +kernel

theorem witness_ShortResponseWaits_list :
    ([2, 18] : List Byte).all (inCatalogue (onRx (rxBytes sixBytes)).cfg.catalogue) = true ∧
      (onRx (rxBytes sixBytes)).writesOk (2 + 2) ∧ (onRx (rxBytes sixBytes)).rx = rxBytes sixBytes ∧
      sixBytes.length < totalLen (onRx (rxBytes sixBytes)).cfg.catalogue [2, 18] ∧
      ([] : List Byte).length < totalLen State.reset.cfg.catalogue [2, 18] := by decide +kernel

/-- All but the checksum byte of frame F, behind the two garbage bytes that the budget allows. -/
theorem shortOfFrame_checksum : ShortOfFrame State.reset.cfg [29, 13] ([0x55, 0xAA] ++ frameF.take 7) :=
  ⟨[0x55, 0xAA], [0x02, 0x19, 0x00], frameF.take 7, [0xA3], 0xA3, by decide +kernel, by decide, by decide +kernel,
    by decide +kernel, by decide +kernel, by decide, rfl⟩

/-- Nothing at all. -/
theorem shortOfFrame_nothing : ShortOfFrame State.reset.cfg [29, 13] [] :=
  ⟨[], [0x02, 0x19, 0x00], [], frameF, 0xA3, by decide +kernel, by decide, by decide +kernel, by decide +kernel,
    by decide +kernel, by decide, rfl⟩

theorem witness_ShortResponseWaits_frame :
    (onRx (rxBytes ([0x55, 0xAA] ++ frameF.take 7))).cfg.wf = true ∧
      ([29, 13] : List Byte).all (inCatalogue State.reset.cfg.catalogue) = true ∧
      ShortOfFrame (onRx (rxBytes ([0x55, 0xAA] ++ frameF.take 7))).cfg [29, 13] ([0x55, 0xAA] ++ frameF.take 7) ∧
      ShortOfFrame State.reset.cfg [29, 13] [] ∧ State.reset.cfg.rxTimeout = none :=
  ⟨reset_wf, by decide +kernel, shortOfFrame_checksum, shortOfFrame_nothing, rfl⟩

theorem witness_FailedResponseWritesNoEntry_packet :
    (onRx (rxBytes (sixBytes.take 5) ++ [.fail])).cfg.wf = true ∧
      inCatalogue (onRx (rxBytes (sixBytes.take 5) ++ [.fail])).cfg.catalogue 2 = true ∧
      (onRx (rxBytes (sixBytes.take 5) ++ [.fail])).writesOk 2 ∧
      (onRx (rxBytes (sixBytes.take 5) ++ [.fail])).rx = rxBytes (sixBytes.take 5) ++ RxItem.fail :: [] ∧
      (sixBytes.take 5).length < byteLength State.reset.cfg.catalogue 2 := by decide +kernel

theorem witness_FailedResponseWritesNoEntry_frame :
    (onRx (rxBytes ([0x55, 0xAA] ++ frameF.take 7) ++ [.fail, .byte 0xA3])).cfg.wf = true ∧
      ([29, 13] : List Byte).all (inCatalogue State.reset.cfg.catalogue) = true ∧
      ShortOfFrame State.reset.cfg [29, 13] ([0x55, 0xAA] ++ frameF.take 7) ∧
      ShortOfFrame State.reset.cfg [29, 13] [] :=
  ⟨reset_wf, by decide +kernel, shortOfFrame_checksum, shortOfFrame_nothing⟩

/-- An operation that waits with nothing read. -/
theorem witness_FailedResponseWritesNoEntry_waiting :
    State.reset.cfg.rxTimeout = none ∧ regs (exec (.readPacket 18) State.reset) = some (.off, [], .resp) ∧
      regs (exec (.readFrame [29, 13]) State.reset) = some (.off, [], .hunt) := by decide +kernel

theorem witness_FailedResponseWritesNoEntry :
    (onRx (rxBytes [0xFF] ++ [.fail])).cfg.wf = true ∧
      (onRx (rxBytes [0xFF] ++ [.fail])).cfg.cmdtab = defaultCmdTab ∧
      ([2] : List Byte).all (inCatalogue (onRx (rxBytes [0xFF] ++ [.fail])).cfg.catalogue) = true ∧
      (onRx (rxBytes [0xFF] ++ [.fail])).writesOk (2 + ([2] : List Byte).length) ∧
      (onRx (rxBytes [0xFF] ++ [.fail])).rx = rxBytes [0xFF] ++ RxItem.fail :: [] ∧
      ([0xFF] : List Byte).length < totalLen State.reset.cfg.catalogue [2] := by decide +kernel

theorem witness_StreamStartCompletes :
    State.reset.cfg.cmdtab = defaultCmdTab ∧ State.reset.writesOk (2 + 2) ∧
      ([29, 13] : List Byte).all (inCatalogue State.reset.cfg.catalogue) = true :=
  ⟨rfl, by decide, by decide +kernel⟩

/-- With no garbage, and with one byte less than the budget of 3. -/
theorem witness_GoodFrameIsDecoded :
    (onRx (rxBytes ([0x55, 0xAA] ++ frameF))).cfg.wf = true ∧
      ([29, 13] : List Byte).all (inCatalogue State.reset.cfg.catalogue) = true ∧
      ([] : List Byte).length < totalLen State.reset.cfg.catalogue [29, 13] ∧
      ([0x55, 0xAA] : List Byte).length < totalLen State.reset.cfg.catalogue [29, 13] ∧
      header ∉ ([0x55, 0xAA] : List Byte) ∧
      ([0x02, 0x19, 0x00] : List Byte).length = totalLen State.reset.cfg.catalogue [29, 13] ∧
      totalLen State.reset.cfg.catalogue [29, 13] + (frameIdsOf State.reset.cfg [29, 13]).length ≤ 255 ∧
      byteSum (frameHead State.reset.cfg [29, 13] [0x02, 0x19, 0x00] ++ [0xA3]) = 0 ∧
      (onRx (rxBytes ([0x55, 0xAA] ++ frameF))).rx =
        rxBytes ([0x55, 0xAA] ++ frameHead State.reset.cfg [29, 13] [0x02, 0x19, 0x00] ++ [0xA3]) ++ [] := by
  decide +kernel

/-- T-S4 c: the frame of the group itself, where an id byte stands for each requested id. -/
theorem witness_GoodFrameIsDecoded_requested :
    (requested []).cfg.wf = true ∧ ([2] : List Byte).all (inCatalogue (requested []).cfg.catalogue) = true ∧
      frameHead (requested []).cfg [2] sixBytes ++ [0x3A] = [0x13, 0x07, 0x02] ++ sixBytes ++ [0x3A] ∧
      byteSum (frameHead (requested []).cfg [2] sixBytes ++ [0x3A]) = 0 := by decide +kernel

theorem witness_BadChecksumIsReported :
    (onRx (rxBytes [0x13, 0x05, 0x1D, 0x02, 0x19, 0x0D, 0x00, 0xA4])).cfg.wf = true ∧
      ([29, 13] : List Byte).all (inCatalogue State.reset.cfg.catalogue) = true ∧
      ([] : List Byte).length < totalLen State.reset.cfg.catalogue [29, 13] ∧ header ∉ ([] : List Byte) ∧
      ([0x02, 0x19, 0x00] : List Byte).length = totalLen State.reset.cfg.catalogue [29, 13] ∧
      totalLen State.reset.cfg.catalogue [29, 13] + (frameIdsOf State.reset.cfg [29, 13]).length ≤ 255 ∧
      byteSum (frameHead State.reset.cfg [29, 13] [0x02, 0x19, 0x00] ++ [0xA4]) ≠ 0 ∧
      (onRx (rxBytes [0x13, 0x05, 0x1D, 0x02, 0x19, 0x0D, 0x00, 0xA4])).rx =
        rxBytes ([] ++ frameHead State.reset.cfg [29, 13] [0x02, 0x19, 0x00] ++ [0xA4]) ++ [] := by decide +kernel

theorem witness_HuntGivesUpAtTheBudget :
    ([29, 13] : List Byte).all (inCatalogue (onRx (rxBytes ([1, 2, 3] ++ frameF))).cfg.catalogue) = true ∧
      ([1, 2, 3] : List Byte).length = totalLen State.reset.cfg.catalogue [29, 13] ∧
      header ∉ ([1, 2, 3] : List Byte) ∧
      (onRx (rxBytes ([1, 2, 3] ++ frameF))).rx = rxBytes [1, 2, 3] ++ rxBytes frameF ∧
      ([] : List Byte).length = totalLen State.reset.cfg.catalogue [] := by decide +kernel

theorem witness_WrongLengthIsReported :
    ([6, 6, 6] : List Byte).all (inCatalogue (onRx (rxBytes [0x13, 0x08])).cfg.catalogue) = true ∧
      ([] : List Byte).length < totalLen State.reset.cfg.catalogue [6, 6, 6] ∧ header ∉ ([] : List Byte) ∧
      (8 : Byte).toNat ≠ totalLen State.reset.cfg.catalogue [6, 6, 6] +
        (frameIdsOf State.reset.cfg [6, 6, 6]).length ∧
      (onRx (rxBytes [0x13, 0x08])).rx = rxBytes ([] ++ [header, 8]) ++ [] := by decide +kernel

/-- The first id byte wrong, and the last one. -/
theorem witness_WrongIdIsReported :
    (onRx (rxBytes [0x13, 0x05, 0x1E])).cfg.wf = true ∧
      ([29, 13] : List Byte).all (inCatalogue State.reset.cfg.catalogue) = true ∧
      totalLen State.reset.cfg.catalogue [29, 13] + (frameIdsOf State.reset.cfg [29, 13]).length = 5 ∧
      frameIdsOf State.reset.cfg [29, 13] = [] ++ 29 :: [13] ∧
      ([] : List Byte).length = totalLen State.reset.cfg.catalogue [] ∧ (0x1E : Byte) ≠ 29 ∧
      (onRx (rxBytes [0x13, 0x05, 0x1E])).rx =
        rxBytes ([] ++ [header, 5] ++ frameBody State.reset.cfg.catalogue [] [] ++ [0x1E]) ++ [] ∧
      frameIdsOf State.reset.cfg [29, 13] = [29] ++ 13 :: [] ∧
      ([0x02, 0x19] : List Byte).length = totalLen State.reset.cfg.catalogue [29] ∧ (0x0E : Byte) ≠ 13 ∧
      (onRx (rxBytes [0x13, 0x05, 0x1D, 0x02, 0x19, 0x0E])).rx =
        rxBytes ([] ++ [header, 5] ++ frameBody State.reset.cfg.catalogue [29] [0x02, 0x19] ++ [0x0E]) ++ [] := by
  decide +kernel

theorem atoms_29_13 : ∀ a ∈ ([29, 13] : List Byte), isAtom State.reset.cfg.catalogue a :=
  (by decide +kernel : ∀ a ∈ ([29, 13] : List Byte), inCatalogue State.reset.cfg.catalogue a = true ∧
    isComposite State.reset.cfg.catalogue a = false)

theorem witness_IdModesAgreeOnAtomicLists :
    (onRx (rxBytes frameF)).cfg.wf = true ∧ ∀ a ∈ ([29, 13] : List Byte), isAtom (onRx (rxBytes frameF)).cfg.catalogue a :=
  ⟨reset_wf, atoms_29_13⟩

/-- READ_FRAME [29, 13] in the phase `p`, with the working registers as the frame F leaves them there. -/
def framing (p : Phase) (idx cnt : Nat) (chk : Byte) (stage : List Byte) : State :=
  { State.reset with
    phase := p
    cmd := ⟨0x10, [.list [29, 13]]⟩
    work := { Work.cleared with
      alist := [29, 13], total := 3, idx := idx, cnt := cnt, chk := chk, stage := stage, flenr := 5 } }

theorem witness_FramePhasesFollowTheTable :
    (framing .hunt 0 0 0 []).work.disc ≠ (framing .hunt 0 0 0 []).work.total ∧ (framing .hunt 0 0 0 []).phase = .hunt ∧
      (5 : Byte).toNat = (framing .flen 0 0 19 []).work.total + (framing .flen 0 0 19 []).frameIds.length ∧
      (framing .pid 1 0 0 [2, 25]).frameIds[1]? = some 13 ∧ 1 < (framing .pdata 0 2 0 []).work.cnt ∧
      (framing .pdata 0 1 0 [2]).work.idx + 1 < (framing .pdata 0 1 0 [2]).frameIds.length ∧
      (framing .pdata 1 1 0 [2, 25]).work.idx + 1 = (framing .pdata 1 1 0 [2, 25]).frameIds.length ∧
      (framing .fchk 2 0 0x5D [2, 25, 0]).work.chk + 0xA3 = 0 ∧
      (framing .fchk 2 0 0x5D [2, 25, 0]).work.chk + 0xA4 ≠ 0 := by decide +kernel

theorem witness_OperationsEndIdleOrWaitOnEmptyRx :
    (exec .modePassive State.reset = .next (({ State.reset.sent [128] with mode := .passive }).ended .modePassive .none)) ∧
      regs (exec (.readPacket 18) State.reset) = some (.off, [], .resp) := ⟨rfl, by decide +kernel⟩

theorem witness_TimeOutEndsTheWait :
    (timed (rxBytes [0xFF])).cfg.wf = true ∧ (timed (rxBytes [0xFF])).cfg.cmdtab = defaultCmdTab ∧
      (timed (rxBytes [0xFF])).cfg.rxTimeout.isSome = true ∧
      inCatalogue (timed (rxBytes [0xFF])).cfg.catalogue 2 = true ∧ (timed (rxBytes [0xFF])).writesOk 2 ∧
      (timed (rxBytes [0xFF])).rx = rxBytes [0xFF] ∧
      ([0xFF] : List Byte).length < byteLength (timed (rxBytes [0xFF])).cfg.catalogue 2 := by decide +kernel

theorem witness_TimeOutEndsTheWait_list :
    (timed (rxBytes [0xFF])).writesOk (2 + 2) ∧ (timed (rxBytes [0xFF])).rx = rxBytes [0xFF] ∧
      ([2, 18] : List Byte).all (inCatalogue (timed (rxBytes [0xFF])).cfg.catalogue) = true ∧
      ([0xFF] : List Byte).length < totalLen (timed (rxBytes [0xFF])).cfg.catalogue [2, 18] := by decide +kernel

/-- Up to the second byte of frame F, with no garbage. -/
theorem witness_TimeOutEndsTheWait_frame :
    (timed (rxBytes [0x13, 0x05])).cfg.wf = true ∧ (timed (rxBytes [0x13, 0x05])).cfg.rxTimeout.isSome = true ∧
      ([29, 13] : List Byte).all (inCatalogue (timed (rxBytes [0x13, 0x05])).cfg.catalogue) = true ∧
      ShortOfFrame (timed (rxBytes [0x13, 0x05])).cfg [29, 13] [0x13, 0x05] :=
  ⟨by decide +kernel, rfl, by decide +kernel, [], [0x02, 0x19, 0x00], [0x13, 0x05], frameF.drop 2, 0xA3,
    by decide +kernel, by decide, by decide +kernel, by decide +kernel, by decide +kernel, by decide, rfl⟩

theorem witness_DeliveryInPiecesIsTheSame :
    State.reset.cfg.wf = true ∧ State.reset.cfg.rxTimeout = none ∧
      regs (exec (.readPacket 18) State.reset) = some (.off, [], .resp) ∧
      regs (exec (.readPacket 18) (onRx (rxBytes [4]))) = some (.off, [], .idle) := by decide +kernel

theorem atom_17 : isAtom filled.cfg.catalogue 17 := by unfold isAtom; decide +kernel

theorem atom_20 : isAtom filled.cfg.catalogue 20 := by unfold isAtom; decide +kernel

theorem not_atom_2 : ¬ (isAtom filled.cfg.catalogue 2 ∧ byteLength filled.cfg.catalogue 2 = 1) := by
  unfold isAtom; decide +kernel

theorem witness_AccessorsAnswerEveryCase :
    ¬ (isAtom filled.cfg.catalogue 2 ∧ byteLength filled.cfg.catalogue 2 = 1) ∧
      (∀ k : Nat, k < 8 → (0x05 : Byte) ≠ BitVec.ofNat 8 (2 ^ k)) ∧
      (isAtom filled.cfg.catalogue 17 ∧ byteLength filled.cfg.catalogue 17 = 1 ∧ filled.cache.read 17 = some [0xFF]) ∧
      State.reset.cache.read 17 = none ∧
      (isAtom filled.cfg.catalogue 20 ∧ byteLength filled.cfg.catalogue 20 = 2 ∧ filled.cache.read 20 = none) ∧
      (byteLength filled.cfg.catalogue 22 = 2 ∧ filled.cache.read 22 = some [0x80, 0x00]) :=
  ⟨not_atom_2, by decide, ⟨atom_17, by decide +kernel⟩, by decide, ⟨atom_20, by decide +kernel⟩, by decide +kernel⟩

theorem witness_ResetMeetsTheInvariant :
    (defaultConfig .v1).wf = true ∧ (requested []).cfg.wf = true := by decide +kernel

theorem idle_Inv (s : State) (h : s.cfg = State.reset.cfg) (hp : s.phase = .idle) (hc : s.cache = [])
    (hs : s.sreq = []) : s.Inv := by
  refine ⟨h ▸ reset_wf, .inl hp, hc ▸ ⟨⟨List.Pairwise.nil, by simp⟩, by simp⟩, hs ▸ ⟨by simp, by simp⟩, ?_⟩
  unfold State.workFits
  rw [hp]
  trivial

theorem atoms_17_20 : ∀ a ∈ ([17, 18, 19, 20] : List Byte), isAtom State.reset.cfg.catalogue a :=
  (by decide +kernel : ∀ a ∈ ([17, 18, 19, 20] : List Byte), inCatalogue State.reset.cfg.catalogue a = true ∧
    isComposite State.reset.cfg.catalogue a = false)

/-- A state that waits meets the invariant, too. -/
theorem waiting_Inv : waiting.Inv :=
  ⟨reset_wf, .inr rfl, ⟨⟨List.Pairwise.nil, by simp [waiting, State.reset, State.resetWith]⟩,
    by simp [waiting, State.reset, State.resetWith]⟩, ⟨by decide, by decide⟩,
    ⟨atoms_17_20, by decide, by decide, by decide +kernel, by decide +kernel⟩⟩

theorem witness_StepKeepsTheInvariant : waiting.Inv ∧ step waiting = .next waiting.runRx :=
  ⟨waiting_Inv, step_waiting _ reset_wf rfl⟩

theorem witness_NoFaultUnderTheInvariant : State.reset.Inv ∧ waiting.Inv :=
  ⟨idle_Inv _ rfl rfl rfl rfl, waiting_Inv⟩

theorem witness_RefusalsUnderTheInvariant :
    (State.reset.issue [0x21]).Inv ∧ step (State.reset.issue [0x21]) = .refused (.malformedRecord (.truncated 0x21)) ∧
      (State.reset.issue [0x01, 0, 0, 0x80, 0]).Inv ∧
      step (State.reset.issue [0x01, 0, 0, 0x80, 0]) = .refused .s16OutOfRange := by
  have h1 : (State.reset.issue [0x21]).takeRecord = .malformed (.truncated 0x21) := by rfl
  have h2 : (State.reset.issue [0x01, 0, 0, 0x80, 0]).takeRecord = .run (.enc16 32768) State.reset := by rfl
  refine ⟨idle_Inv _ rfl rfl rfl rfl, ?_, idle_Inv _ rfl rfl rfl rfl, ?_⟩
  · simp only [step, State.issue_cfg, reset_wf, if_true, State.issue_phase, h1]
    rfl
  · simp only [step, State.issue_cfg, reset_wf, if_true, State.issue_phase, h2]
    rfl

theorem witness_PortsMoveForwardOnly : step waiting = .next waiting.runRx := step_waiting _ reset_wf rfl

theorem witness_OnlyReadsWriteTheCache :
    exec (.readPacket 18) (onRx (rxBytes [4, 5])) = .next (after18 4 [142, 18] [5]) ∧
      (after18 4 [142, 18] [5]).cache ≠ (onRx (rxBytes [4, 5])).cache ∧
      (after18 4 [142, 18] [5]).cache.valid 18 = true := ⟨rfl, by decide, by decide⟩

theorem witness_WritersOfModeAndSreq :
    regs (exec .modeFull State.reset) = some (.full, [], .idle) ∧
      regs (exec (.streamStart [29, 13]) State.reset) = some (.off, [29, 13], .idle) := by decide +kernel

theorem witness_CommandLengths : commandBytes defaultCmdTab (.storeSong 3 [(60, 32)]) = some [140, 3, 1, 60, 32] := by
  decide

theorem witness_FittingTableHasEveryCommand :
    cmdTabWf defaultCmdTab = true ∧ (Instr.drive 32767 (-32768)).isWire = true ∧
      (Instr.drive 32767 (-32768)).operands.all Operand.inRange = true := by decide

/-- R131: the family has the packets 0 and 58, and neither 59 nor the overridden ids. -/
theorem test_read_sensor_packet :
    readSensorPacket 0 = some (.readPacket 0) ∧ readSensorPacket 58 = some (.readPacket 58) ∧
      ([59, 100, 101, 106, 107] : List Byte).map readSensorPacket = [none, none, none, none, none] := by decide

/-- R112, R8: the record of `MODE_SAFE`, placed on the CMD port right after reset, runs in the next step: TX gets 0x83
and MODE is Safe. -/
theorem test_step_runs_the_placed_record :
    (match step (State.reset.withFetchWord 8 0x83) with
      | .next t => decide (t.txLog = [0x83#8] ∧ t.mode = .safe ∧ t.host = [] ∧ t.phase = .idle)
      | .fault _ => false
      | .refused _ => false) = true := by decide

end Sys2Proof.Tests
end

/-! PROOFS. Who writes the sensor cache (R44): every operation and every step leaves the cache as it is, or ends with
OK and has committed bytes to it; a commit clears no valid bit. -/
namespace Sys2Proof.Machine

/-! ### What a step and READ_FRAME can do -/

/-- Everything a step can do, if it answers a next state: an idle block with no record stays as it is; it takes a record
and runs its operation, or ends with `INVALID_ARGUMENT` for an unknown selector; a waiting block reads on (R8, R18,
R85). -/
theorem step_next {s t : State} (h : step s = .next t) :
    (s.phase = .idle ∧ s.host = [] ∧ t = s) ∨
    (s.phase = .idle ∧ ∃ record rest, s.host = record :: rest ∧
      ((∃ i left, decode s.cfg.valueW record = .ok (i, left) ∧ exec i { s with host := rest } = .next t) ∨
       ∃ sel, decode s.cfg.valueW record = .error (.unknownSelector sel) ∧
        t = unknownSelector sel { s with host := rest })) ∨
    (s.phase.waits = true ∧ t = s.runRx) := by
  unfold step at h
  split at h
  · split at h
    · next hp =>
      unfold State.takeRecord at h
      cases hh : s.host with
      | nil =>
        simp only [hh] at h
        injection h with h
        exact .inl ⟨hp, rfl, h.symm⟩
      | cons record rest =>
        refine .inr (.inl ⟨hp, record, rest, rfl, ?_⟩)
        simp only [hh] at h
        cases hd : decode s.cfg.valueW record with
        | ok r =>
          simp only [hd] at h
          exact .inl ⟨r.1, r.2, rfl, h⟩
        | error e =>
          simp only [hd] at h
          cases e with
          | unknownSelector sel =>
            injection h with h
            exact .inr ⟨sel, rfl, h.symm⟩
          | _ => cases h
    · unfold resume at h
      split at h
      · next hw =>
        injection h with h
        exact .inr (.inr ⟨hw, h.symm⟩)
      · cases h
  · cases h

/-- Everything READ_FRAME can do (R153): it is refused with `INVALID_ARGUMENT`, or it hunts for a frame on RX. -/
theorem execReadFrame_next {ids : List Byte} {s t : State} (h : execReadFrame ids s = .next t) :
    (ids.all (inCatalogue s.cfg.catalogue) = false ∧ t = (s.accept (.readFrame ids)).raise .invalidArgument .none) ∨
    (ids.all (inCatalogue s.cfg.catalogue) = true ∧ t = ((s.accept (.readFrame ids)).startHunt ids).runRx) := by
  unfold execReadFrame at h
  split at h
  · next hc =>
    injection h with h
    exact .inr ⟨hc, h.symm⟩
  · next hc =>
    injection h with h
    exact .inl ⟨Bool.eq_false_iff.2 hc, h.symm⟩

/-! ### A state that keeps the cache, or has committed to it and ended with OK -/

/-- R44, R46: `t` has the cache of `s`; or `t` is at the end of an operation that ended with OK, and its cache is that
of `s` after a commit. -/
def State.keepsOrCommits (s t : State) : Prop :=
  t.cache = s.cache ∨
  (t.phase = .idle ∧ t.res.status = .ok ∧
    ∃ atoms stage, t.cache = Memory.commit s.cfg.catalogue atoms stage s.cache)

/-- What came before and left the configuration and the cache alone does not matter. -/
theorem State.keepsOrCommits.of_same {s t u : State} (hcfg : t.cfg = s.cfg) (hcache : t.cache = s.cache)
    (h : t.keepsOrCommits u) : s.keepsOrCommits u := by
  unfold State.keepsOrCommits at h ⊢
  rwa [hcfg, hcache] at h

/-- An operation that changed the cache has ended, with OK. -/
theorem State.keepsOrCommits.ended_ok {s t : State} (h : s.keepsOrCommits t) (hne : t.cache ≠ s.cache) :
    t.phase = .idle ∧ t.res.status = .ok := by
  rcases h with hkeep | ⟨hphase, hok, -⟩
  · exact absurd hkeep hne
  · exact ⟨hphase, hok⟩

/-- R44: no valid bit is cleared. -/
theorem State.keepsOrCommits.valid {s t : State} (h : s.keepsOrCommits t) {id : Nat}
    (hv : s.cache.valid id = true) : t.cache.valid id = true := by
  rcases h with hkeep | ⟨-, -, atoms, stage, hcommit⟩
  · rwa [hkeep]
  · rw [hcommit]
    exact Memory.valid_commit _ _ _ hv

theorem State.commitStage_keepsOrCommits (s : State) : s.keepsOrCommits s.commitStage :=
  .inr ⟨rfl, rfl, s.work.alist, s.work.stage, rfl⟩

/-! ### Reading from RX -/

theorem State.settle_keepsOrCommits (s : State) : s.keepsOrCommits s.settle := by
  rcases State.settle_cases s with h | ⟨-, -, h⟩ | ⟨-, -, h⟩ <;> rw [h]
  · exact .inl rfl
  · exact .inl rfl
  · exact s.commitStage_keepsOrCommits

/-- A block that still waits has not committed. -/
theorem State.settle_cache_of_waits {s : State} (h : s.settle.phase.waits = true) : s.settle.cache = s.cache := by
  rcases s.settle_keepsOrCommits with hkeep | ⟨hidle, -⟩
  · exact hkeep
  · rw [hidle] at h
    cases h

/-- Of the items, only the checksum byte of a valid frame makes the block commit (R160). -/
theorem State.onItem_keepsOrCommits (item : RxItem) (s : State) : s.keepsOrCommits (s.onItem item) := by
  cases item with
  | fail => exact .inl rfl
  | byte b =>
    simp only [State.onItem]
    split
    · exact .inl rfl
    · left; unfold State.onHunt; split_ifs <;> rfl
    · left; unfold State.onFlen; split_ifs <;> rfl
    · left; unfold State.onPid; split
      · split_ifs <;> rfl
      · rfl
    · left; unfold State.onPdata; split_ifs <;> rfl
    · unfold State.onFchk
      split_ifs
      · exact s.commitStage_keepsOrCommits
      · exact .inl rfl
    all_goals exact .inl rfl

@[simp] theorem State.rxExhausted_cache (s : State) : s.rxExhausted.cache = s.cache := by
  unfold State.rxExhausted
  split <;> rfl

/-- After a commit the block is idle, so reading commits at most once. -/
theorem State.pump_keepsOrCommits (items : List RxItem) (s : State) : s.keepsOrCommits (State.pump items s) := by
  induction items generalizing s with
  | nil =>
    simp only [State.pump]
    split_ifs with hw
    · exact .inl ((State.rxExhausted_cache _).trans (State.settle_cache_of_waits hw))
    · exact s.settle_keepsOrCommits
  | cons item items ih =>
    simp only [State.pump]
    split_ifs with hw
    · refine .of_same (State.settle_frame s).1.1 (State.settle_cache_of_waits hw) ?_
      rcases State.onItem_keepsOrCommits item s.settle with hkeep | ⟨hidle, hcommit⟩
      · exact .of_same (State.onItem_frame item s.settle).1.1 hkeep (ih _)
      · rw [State.pump_idle items hidle]
        exact .inr ⟨hidle, hcommit⟩
    · exact s.settle_keepsOrCommits

theorem State.runRx_keepsOrCommits (s : State) : s.keepsOrCommits s.runRx := s.pump_keepsOrCommits s.rx

/-! ### The operations -/

/-- What a wire operation does to the cache: nothing, or what `after` does from a state with the same cache. -/
theorem emitThen_cache_cases {i : Instr} {check : Bool} {after : State → State} {s t : State}
    (h : emitThen i check after s = .next t) :
    t.cache = s.cache ∨ ∃ u : State, u.cfg = s.cfg ∧ u.cache = s.cache ∧ t = after u := by
  rcases emitThen_next h with ⟨-, rfl⟩ | ⟨-, -, bs, -, ⟨fates, rfl⟩ | ⟨k, fates, -, rfl⟩⟩
  · exact .inl rfl
  · exact .inr ⟨s.emitted i bs fates, rfl, rfl, rfl⟩
  · exact .inl rfl

theorem emitThen_keepsOrCommits {i : Instr} {check : Bool} {after : State → State} {s t : State}
    (h : emitThen i check after s = .next t) (hafter : ∀ u : State, u.keepsOrCommits (after u)) :
    s.keepsOrCommits t := by
  rcases emitThen_cache_cases h with hkeep | ⟨u, hcfg, hcache, rfl⟩
  · exact .inl hkeep
  · exact .of_same hcfg hcache (hafter u)

theorem emitThen_cache {i : Instr} {check : Bool} {after : State → State} {s t : State}
    (h : emitThen i check after s = .next t) (hafter : ∀ u, (after u).cache = u.cache) : t.cache = s.cache := by
  rcases emitThen_cache_cases h with hkeep | ⟨u, -, hcache, rfl⟩
  · exact hkeep
  · exact (hafter u).trans hcache

/-- R136: the response of the two request operations. -/
theorem State.startResp_runRx_keepsOrCommits (alist : List Byte) (s : State) :
    s.keepsOrCommits (s.startResp alist).runRx :=
  .of_same rfl rfl (s.startResp alist).runRx_keepsOrCommits

/-- R43: an accessor only reads the cache. -/
theorem accessThen_cache {i : Instr} {id : Byte} {len : Nat} {use : List Byte → ResData} {s t : State}
    (h : accessThen i id len use s = .next t) : t.cache = s.cache := by
  rcases accessThen_next h with ⟨-, rfl⟩ | ⟨-, -, ⟨-, rfl⟩ | ⟨d, -, -, rfl⟩⟩ <;> rfl

theorem execGetBit_cache {id mask : Byte} {s t : State} (h : execGetBit id mask s = .next t) : t.cache = s.cache := by
  unfold execGetBit at h
  split at h
  · exact accessThen_cache h
  · injection h with h
    rw [← h]; rfl

theorem execEnc16_cache {v : Int} {s t : State} (h : execEnc16 v s = .next t) : t.cache = s.cache := by
  unfold execEnc16 at h
  split at h
  · injection h with h
    rw [← h]; rfl
  · cases h

theorem execDec16_cache {high low : Byte} {s t : State} (h : execDec16 high low s = .next t) : t.cache = s.cache := by
  injection h with h
  rw [← h]; rfl

/-- R180: a one-shot command leaves the cache alone. -/
theorem emitOnly_cache {i : Instr} {check : Bool} {s t : State} (h : emitOnly i check s = .next t) :
    t.cache = s.cache :=
  emitThen_cache h fun _ => rfl

/-- R44: an operation other than the three reads leaves the cache alone. -/
theorem exec_cache_of_not_readsSensors {i : Instr} {s t : State} (hi : i.readsSensors = false)
    (h : exec i s = .next t) : t.cache = s.cache := by
  cases i with
  | readPacket | readPacketList | readFrame => cases hi
  | enc16 v => exact execEnc16_cache h
  | dec16 high low => exact execDec16_cache h
  | getBit id mask => exact execGetBit_cache h
  | getU8 | getS16 | getU16 => exact accessThen_cache h
  | modePassive | modeSafe | modeFull | modeOff | streamStart | streamPauseResume =>
    unfold exec at h
    exact emitThen_cache h fun _ => rfl
  | _ =>
    unfold exec at h
    exact emitOnly_cache h

/-- R44, R46: every operation keeps the cache, or ends with OK and has committed to it. -/
theorem exec_keepsOrCommits {i : Instr} {s t : State} (h : exec i s = .next t) : s.keepsOrCommits t := by
  cases hi : i.readsSensors with
  | false => exact .inl (exec_cache_of_not_readsSensors hi h)
  | true =>
    cases i with
    | readPacket id => exact emitThen_keepsOrCommits h fun u => u.startResp_runRx_keepsOrCommits _
    | readPacketList ids => exact emitThen_keepsOrCommits h fun u => u.startResp_runRx_keepsOrCommits _
    | readFrame ids =>
      rcases execReadFrame_next h with ⟨-, rfl⟩ | ⟨-, rfl⟩
      · exact .inl rfl
      · exact ((s.accept (.readFrame ids)).startHunt ids).runRx_keepsOrCommits
    | _ => cases hi

/-- R44, R46: every step keeps the cache, or ends an operation with OK and has committed to it. -/
theorem step_keepsOrCommits {s t : State} (h : step s = .next t) : s.keepsOrCommits t := by
  rcases step_next h with ⟨-, -, rfl⟩ | ⟨-, record, rest, -, ⟨i, left, -, he⟩ | ⟨sel, -, rfl⟩⟩ | ⟨-, rfl⟩
  · exact .inl rfl
  · exact .of_same (t := { s with host := rest }) rfl rfl (exec_keepsOrCommits he)
  · exact .inl rfl
  · exact s.runRx_keepsOrCommits

/-! ### The statement -/

/-- Settles O52: a changed cache means a commit, only the three reads commit, and a commit clears no valid bit. -/
theorem onlyReadsWriteTheCache : Obligations.OnlyReadsWriteTheCache := by
  refine ⟨fun i s t h hne => ?_, fun s t id h hv => (step_keepsOrCommits h).valid hv, Memory.read_write⟩
  refine ⟨?_, (exec_keepsOrCommits h).ended_ok hne⟩
  by_contra hi
  exact hne (exec_cache_of_not_readsSensors (Bool.eq_false_iff.2 hi) h)

end Sys2Proof.Machine

/-! PROOFS. The byte codec: what its three functions give on every integer and every pair of bytes (R100 to R102), and
that the operations ENC16 and DEC16 end with these results and change nothing else (R103, R104). -/
namespace Sys2Proof

/-! ### The functions -/

theorem inS16_iff {v : Int} : inS16 v = true ↔ -32768 ≤ v ∧ v ≤ 32767 := by
  simp [inS16]

theorem pattern16_of_nonneg {v : Int} (h : 0 ≤ v) : pattern16 v = v.toNat := by
  rw [pattern16, if_pos h]

theorem pattern16_of_neg {v : Int} (h : v < 0) : pattern16 v = (v + 65536).toNat := by
  rw [pattern16, if_neg (Int.not_le.2 h)]

/-- R100: in range, the two bytes are the quotient and the remainder of the pattern by 256. -/
theorem enc16_of_inRange {v : Int} (hlo : -32768 ≤ v) (hhi : v ≤ 32767) :
    enc16 v = some (BitVec.ofNat 8 (pattern16 v / 256), BitVec.ofNat 8 (pattern16 v % 256)) :=
  if_pos (inS16_iff.2 ⟨hlo, hhi⟩)

/-- U1: out of range there is no pair. -/
theorem enc16_of_outOfRange {v : Int} (h : v < -32768 ∨ 32767 < v) : enc16 v = none := by
  refine if_neg fun hin => ?_
  obtain ⟨hlo, hhi⟩ := inS16_iff.1 hin
  omega

/-- R30: two bytes make a number of 16 bits. -/
theorem u16_le (h l : Byte) : u16 h l ≤ 65535 := by
  have hh := h.isLt
  have hl := l.isLt
  unfold u16
  omega

/-- R101: with bit 15 clear, the number itself. -/
theorem dec16_of_lt {h l : Byte} (hu : u16 h l < 32768) : dec16 h l = u16 h l := if_pos hu

/-- R101: with bit 15 set, the number less 65536. -/
theorem dec16_of_le {h l : Byte} (hu : 32768 ≤ u16 h l) : dec16 h l = u16 h l - 65536 :=
  if_neg (Nat.not_lt.2 hu)

theorem dec16_inRange (h l : Byte) : -32768 ≤ dec16 h l ∧ dec16 h l ≤ 32767 := by
  have hmax := u16_le h l
  rcases Nat.lt_or_ge (u16 h l) 32768 with hu | hu
  · rw [dec16_of_lt hu]; omega
  · rw [dec16_of_le hu]; omega

end Sys2Proof

namespace Sys2Proof.Machine

/-- Settles O9, by the sign of the integer for `enc16` and by bit 15 of the pair for `dec16`. -/
theorem codecFunctionsAsDefined : Obligations.CodecFunctionsAsDefined := by
  refine ⟨fun v hlo hhi => ?_, fun v hlo hneg => ?_, fun v => enc16_of_outOfRange, fun h l hu => ?_,
    fun h l hu => ?_, dec16_inRange, fun h l => ⟨rfl, u16_le h l⟩⟩
  · rw [enc16_of_inRange (by omega) hhi, pattern16_of_nonneg hlo]
  · rw [enc16_of_inRange hlo (by omega), pattern16_of_neg hneg]
  · exact (dec16_of_lt hu).trans (by simp [u16])
  · exact (dec16_of_le hu).trans (by simp [u16])

/-! ### The operations -/

/-- R231: accepting an operation and finishing it at once changes CMD, RES, PHASE and the working registers only. -/
theorem endsIn_finish_accept (i : Instr) (data : ResData) (s : State) :
    EndsIn (.next ((s.accept i).finish data)) (s.ended i data) :=
  ⟨Work.cleared, rfl⟩

/-- R103: ENC16 of a value that has a pair answers that pair. -/
theorem execEnc16_of_enc16 {v : Int} {high low : Byte} (h : enc16 v = some (high, low)) (s : State) :
    execEnc16 v s = .next ((s.accept (.enc16 v)).finish (.pair high low)) := by
  simp only [execEnc16, h]

/-- Settles O11: both operations finish in the step that accepts them, ENC16 because a value in range has a pair. -/
theorem codecOperationsComplete : Obligations.CodecOperationsComplete := by
  refine ⟨fun _ _ _ => ⟨rfl, rfl⟩, fun s v hlo hhi => ?_, fun s h l => endsIn_finish_accept _ _ s⟩
  have henc := enc16_of_inRange hlo hhi
  refine ⟨_, _, henc, ?_⟩
  change EndsIn (execEnc16 v s) _
  rw [execEnc16_of_enc16 henc]
  exact endsIn_finish_accept _ _ s

end Sys2Proof.Machine

/-! PROOFS. The mode operations (R110 to R115): `setMode` names all four of them, so what one of them does is said once,
for every target; and who writes MODE and SREQ (R11, R12). -/
namespace Sys2Proof.Machine

/-! ### Wire operations that fail -/

/-- R233: a wire operation whose check passes, and of whose command the transport takes `k` bytes and fails the next. -/
theorem emitThen_fail {i : Instr} {after : State → State} {s : State} {bs : List Byte} {k : Nat} {rest : List Bool}
    (hr : i.operands.all Operand.inRange = true) (hb : commandBytes s.cfg.cmdtab i = some bs) (hk : k < bs.length)
    (hf : s.txFates = List.replicate k true ++ false :: rest) :
    emitThen i true after s = .next ((s.emitted i (bs.take k) rest).raise .transportFailure .none) := by
  have h := State.txBytes_fail bs (s := (s.accept i).startEmit) hk hf
  rw [State.accept_wrote] at h
  simp [emitThen, hr, hb, h]

/-- R239: accepting an operation and refusing it changes CMD, RES, PHASE and the working registers only. -/
theorem endsIn_raise_accept (i : Instr) (status : Status) (sub : SubCause) (s : State) :
    EndsIn (.next ((s.accept i).raise status sub)) (s.failed i status sub) :=
  ⟨Work.cleared, rfl⟩

/-- R233, R240: a command that fails before the transport has taken any of its bytes sends nothing. -/
theorem endsIn_raise_emitted_nil (i : Instr) (fates : List Bool) (status : Status) (sub : SubCause) (s : State) :
    EndsIn (.next ((s.emitted i [] fates).raise status sub)) ({ s with txFates := fates }.failed i status sub) :=
  ⟨Work.cleared, by simp [State.emitted, State.raise, State.failed]⟩

/-! ### The four mode operations -/

/-- R115: the operations that write MODE are those `setMode` selects. -/
theorem setsMode_iff {i : Instr} : i.setsMode = true ↔ ∃ m, i = setMode m := by
  constructor
  · intro h
    cases i with
    | modePassive => exact ⟨.passive, rfl⟩
    | modeSafe => exact ⟨.safe, rfl⟩
    | modeFull => exact ⟨.full, rfl⟩
    | modeOff => exact ⟨.off, rfl⟩
    | _ => cases h
  · rintro ⟨m, rfl⟩
    cases m <;> rfl

/-- R110: a mode operation writes its command and then commits the mode. -/
theorem exec_setMode (m : OperatingMode) (s : State) :
    exec (setMode m) s = emitThen (setMode m) (s.accepts (setMode m)) (State.commitMode m) s := by
  cases m <;> rfl

/-- R87: a mode operation has no operand that could be out of range. -/
theorem setMode_operands_inRange (m : OperatingMode) : (setMode m).operands.all Operand.inRange = true := by
  cases m <;> rfl

/-- R111 to R114: the command of a mode operation is the one byte that is its selector. -/
theorem commandBytes_setMode (m : OperatingMode) :
    commandBytes defaultCmdTab (setMode m) = some [(setMode m).sel] := by
  cases m <;> decide

/-- R111 to R114: a mode operation whose byte the transport takes sends that byte and records the mode. -/
theorem exec_setMode_ok {m : OperatingMode} {s : State} (hacc : s.accepts (setMode m) = true)
    (htab : s.cfg.cmdtab = defaultCmdTab) (hw : s.writesOk 1) :
    EndsIn (exec (setMode m) s) ({ s.sent [(setMode m).sel] with mode := m }.ended (setMode m) .none) := by
  have hb : commandBytes s.cfg.cmdtab (setMode m) = some [(setMode m).sel] := htab ▸ commandBytes_setMode m
  rw [exec_setMode, hacc, emitThen_ok (setMode_operands_inRange m) hb hw]
  exact ⟨Work.cleared, rfl⟩

/-- R111 to R114, R233: a mode operation whose byte the transport fails sends nothing and leaves MODE unchanged. -/
theorem exec_setMode_fail {m : OperatingMode} {s : State} {rest : List Bool} (hacc : s.accepts (setMode m) = true)
    (htab : s.cfg.cmdtab = defaultCmdTab) (hf : s.txFates = false :: rest) :
    EndsIn (exec (setMode m) s) ({ s with txFates := rest }.failed (setMode m) .transportFailure .none) := by
  have hb : commandBytes s.cfg.cmdtab (setMode m) = some [(setMode m).sel] := htab ▸ commandBytes_setMode m
  rw [exec_setMode, hacc, emitThen_fail (k := 0) (setMode_operands_inRange m) hb Nat.zero_lt_one hf]
  exact endsIn_raise_emitted_nil _ rest _ _ s

/-- R114, R232: a mode operation that is not accepted ends with `INVALID_ARGUMENT` and changes nothing else. -/
theorem exec_setMode_refused {m : OperatingMode} {s : State} (hacc : s.accepts (setMode m) = false) :
    EndsIn (exec (setMode m) s) (s.failed (setMode m) .invalidArgument .none) := by
  rw [exec_setMode, hacc]
  exact endsIn_raise_accept _ _ _ s

/-- R114: MODE_OFF is accepted under V2 only. -/
theorem accepts_modeOff_iff {s : State} : s.accepts (setMode .off) = true ↔ s.cfg.pver = .v2 := by
  change (s.cfg.pver != .v1) = true ↔ _
  cases s.cfg.pver <;> decide

/-- Settles O13: the three operations are `setMode` of three targets that every state accepts. -/
theorem modeOperationsSendAndRecord : Obligations.ModeOperationsSendAndRecord := by
  refine ⟨⟨rfl, rfl, rfl⟩, fun s htab hw => ?_, fun s rest htab hf => ?_⟩
  · exact ⟨exec_setMode_ok (m := .passive) rfl htab hw, exec_setMode_ok (m := .safe) rfl htab hw,
      exec_setMode_ok (m := .full) rfl htab hw⟩
  · exact ⟨exec_setMode_fail (m := .passive) rfl htab hf, exec_setMode_fail (m := .safe) rfl htab hf,
      exec_setMode_fail (m := .full) rfl htab hf⟩

/-- Settles O14: MODE_OFF is `setMode` of Off, which V2 accepts and V1 does not. -/
theorem modeOffDependsOnTheVersion : Obligations.ModeOffDependsOnTheVersion := by
  refine ⟨rfl, fun s htab hv hw => ?_, fun s rest htab hv hf => ?_, fun s hv => ?_⟩
  · exact exec_setMode_ok (accepts_modeOff_iff.2 hv) htab hw
  · exact exec_setMode_fail (accepts_modeOff_iff.2 hv) htab hf
  · have hrefused : s.accepts (setMode .off) = false := Bool.eq_false_iff.2 fun hacc => by
      cases hv.symm.trans (accepts_modeOff_iff.1 hacc)
    exact exec_setMode_refused hrefused

/-! ### Who writes MODE and SREQ -/

/-- R11, R12: `t` has the MODE and the SREQ of `s`. -/
def State.sameModeAndSreq (s t : State) : Prop := t.mode = s.mode ∧ t.sreq = s.sreq

theorem State.sameModeAndSreq.trans {s t u : State} (h₁ : s.sameModeAndSreq t) (h₂ : t.sameModeAndSreq u) :
    s.sameModeAndSreq u :=
  ⟨h₂.1.trans h₁.1, h₂.2.trans h₁.2⟩

theorem State.raise_accept_sameModeAndSreq (i : Instr) (status : Status) (sub : SubCause) (s : State) :
    s.sameModeAndSreq ((s.accept i).raise status sub) :=
  ⟨rfl, rfl⟩

theorem State.finish_sameModeAndSreq (data : ResData) (s : State) : s.sameModeAndSreq (s.finish data) := ⟨rfl, rfl⟩

theorem State.runRx_sameModeAndSreq (s : State) : s.sameModeAndSreq s.runRx := by
  obtain ⟨-, hmode, hsreq, -⟩ := State.pump_frame s.rx s
  exact ⟨hmode, hsreq⟩

theorem State.startResp_runRx_sameModeAndSreq (alist : List Byte) (s : State) :
    s.sameModeAndSreq (s.startResp alist).runRx :=
  .trans (t := s.startResp alist) ⟨rfl, rfl⟩ (State.runRx_sameModeAndSreq _)

/-- A wire operation keeps MODE and SREQ up to the point where `after` goes on. -/
theorem emitThen_sameModeAndSreq_or {i : Instr} {check : Bool} {after : State → State} {s t : State}
    (h : emitThen i check after s = .next t) :
    s.sameModeAndSreq t ∨ ∃ u, s.sameModeAndSreq u ∧ t = after u := by
  rcases emitThen_next h with ⟨-, rfl⟩ | ⟨-, -, bs, -, ⟨fates, rfl⟩ | ⟨k, fates, -, rfl⟩⟩
  · exact .inl ⟨rfl, rfl⟩
  · exact .inr ⟨s.emitted i bs fates, ⟨rfl, rfl⟩, rfl⟩
  · exact .inl ⟨rfl, rfl⟩

/-- A wire operation whose rest keeps MODE and SREQ keeps them as a whole. -/
theorem emitThen_sameModeAndSreq {i : Instr} {check : Bool} {after : State → State} {s t : State}
    (h : emitThen i check after s = .next t) (hafter : ∀ u : State, u.sameModeAndSreq (after u)) :
    s.sameModeAndSreq t := by
  rcases emitThen_sameModeAndSreq_or h with hsame | ⟨u, hsame, rfl⟩
  · exact hsame
  · exact hsame.trans (hafter u)

/-- R180: a one-shot command writes neither register. -/
theorem emitOnly_sameModeAndSreq {i : Instr} {check : Bool} {s t : State} (h : emitOnly i check s = .next t) :
    s.sameModeAndSreq t :=
  emitThen_sameModeAndSreq h (State.finish_sameModeAndSreq .none)

/-- R220: whatever an accessor answers, it keeps MODE and SREQ. -/
theorem accessThen_sameModeAndSreq {i : Instr} {id : Byte} {len : Nat} {use : List Byte → ResData} {s t : State}
    (h : accessThen i id len use s = .next t) : s.sameModeAndSreq t := by
  rcases accessThen_next h with ⟨-, rfl⟩ | ⟨-, -, ⟨-, rfl⟩ | ⟨d, -, -, rfl⟩⟩ <;> exact ⟨rfl, rfl⟩

theorem execGetBit_sameModeAndSreq {id mask : Byte} {s t : State} (h : execGetBit id mask s = .next t) :
    s.sameModeAndSreq t := by
  unfold execGetBit at h
  split at h
  · exact accessThen_sameModeAndSreq h
  · injection h with h
    exact h ▸ s.raise_accept_sameModeAndSreq _ _ _

theorem execEnc16_sameModeAndSreq {v : Int} {s t : State} (h : execEnc16 v s = .next t) : s.sameModeAndSreq t := by
  unfold execEnc16 at h
  split at h
  · injection h with h
    exact h ▸ ⟨rfl, rfl⟩
  · cases h

theorem execReadFrame_sameModeAndSreq {ids : List Byte} {s t : State} (h : execReadFrame ids s = .next t) :
    s.sameModeAndSreq t := by
  rcases execReadFrame_next h with ⟨-, rfl⟩ | ⟨-, rfl⟩
  · exact s.raise_accept_sameModeAndSreq _ _ _
  · exact .trans (t := (s.accept (.readFrame ids)).startHunt ids) ⟨rfl, rfl⟩ (State.runRx_sameModeAndSreq _)

/-- R11, R12: an operation other than the four mode operations and STREAM_START writes neither MODE nor SREQ. -/
theorem exec_sameModeAndSreq {i : Instr} {s t : State} (hm : i.setsMode = false) (hs : i.setsSreq = false)
    (h : exec i s = .next t) : s.sameModeAndSreq t := by
  cases i with
  | modePassive | modeSafe | modeFull | modeOff => cases hm
  | streamStart => cases hs
  | enc16 v => exact execEnc16_sameModeAndSreq h
  | dec16 high low =>
    injection h with h
    exact h ▸ ⟨rfl, rfl⟩
  | getBit id mask => exact execGetBit_sameModeAndSreq h
  | getU8 | getS16 | getU16 => exact accessThen_sameModeAndSreq h
  | readPacket | readPacketList =>
    exact emitThen_sameModeAndSreq h fun u => u.startResp_runRx_sameModeAndSreq _
  | readFrame ids => exact execReadFrame_sameModeAndSreq h
  | _ =>
    unfold exec at h
    exact emitOnly_sameModeAndSreq h

/-- R110: a mode operation changes MODE only if it ends with OK, and never changes SREQ. -/
theorem exec_setMode_writes {m : OperatingMode} {s t : State} (h : exec (setMode m) s = .next t) :
    (t.mode = s.mode ∨ t.res.status = .ok) ∧ t.sreq = s.sreq := by
  rw [exec_setMode] at h
  rcases emitThen_sameModeAndSreq_or h with ⟨hmode, hsreq⟩ | ⟨u, ⟨-, hsreq⟩, rfl⟩
  · exact ⟨.inl hmode, hsreq⟩
  · exact ⟨.inr rfl, hsreq⟩

/-- R151: STREAM_START changes SREQ only if it ends with OK, and never changes MODE. -/
theorem exec_streamStart_writes {ids : List Byte} {s t : State} (h : exec (.streamStart ids) s = .next t) :
    t.mode = s.mode ∧ (t.sreq = s.sreq ∨ t.res.status = .ok) := by
  rcases emitThen_sameModeAndSreq_or h with ⟨hmode, hsreq⟩ | ⟨u, ⟨hmode, -⟩, rfl⟩
  · exact ⟨hmode, .inl hsreq⟩
  · exact ⟨hmode, .inr rfl⟩

/-- R12: STREAM_START is the operation that writes SREQ. -/
theorem setsSreq_iff {i : Instr} : i.setsSreq = true ↔ ∃ ids, i = .streamStart ids := by
  constructor
  · intro h
    cases i with
    | streamStart ids => exact ⟨ids, rfl⟩
    | _ => cases h
  · rintro ⟨ids, rfl⟩
    rfl

/-- Settles O53, by what the operation writes: MODE, SREQ, or neither. -/
theorem writersOfModeAndSreq : Obligations.WritersOfModeAndSreq := by
  refine ⟨⟨rfl, rfl, rfl, rfl⟩, fun i s t h => ?_⟩
  cases hm : i.setsMode with
  | true =>
    obtain ⟨m, rfl⟩ := setsMode_iff.1 hm
    obtain ⟨hmode, hsreq⟩ := exec_setMode_writes h
    exact ⟨fun hne => ⟨rfl, hmode.resolve_left hne⟩, fun hne => absurd hsreq hne⟩
  | false =>
    cases hs : i.setsSreq with
    | true =>
      obtain ⟨ids, rfl⟩ := setsSreq_iff.1 hs
      obtain ⟨hmode, hsreq⟩ := exec_streamStart_writes h
      exact ⟨fun hne => absurd hmode hne, fun hne => ⟨rfl, hsreq.resolve_left hne⟩⟩
    | false =>
      obtain ⟨hmode, hsreq⟩ := exec_sameModeAndSreq hm hs h
      exact ⟨fun hne => absurd hmode hne, fun hne => absurd hsreq hne⟩

end Sys2Proof.Machine

/-! PROOFS. How a packet expands (R124) and how long it is (R130), for every well-formed catalogue (R128). -/
namespace Sys2Proof.Machine

/-! ### What well-formedness says of one packet -/

section
variable {c : Catalogue} {id : Byte} {d : Descriptor} {first last : Nat}

/-- R123: a packet without a range is atomic. -/
theorem isAtom_of_descriptor (hd : descriptor c id.toNat = some d) (hg : d.groupRange = none) : isAtom c id := by
  simp [isAtom, inCatalogue, isComposite, hd, hg]

/-- R128 (a), (c): a member of a group is a byte, and a packet of the catalogue. -/
theorem member_inCatalogue (hc : catalogueWf c = true) (hd : descriptor c id.toNat = some d)
    (hg : d.groupRange = some (first, last)) {m : Nat} (hm : m ∈ rangeIds first last) :
    (BitVec.ofNat 8 m).toNat = m ∧ inCatalogue c (BitVec.ofNat 8 m) = true := by
  obtain ⟨hids, -, hranges, -, -⟩ := catalogueWf_parts hc
  have hrange := List.all_eq_true.1 hranges d (descriptor_some hd).2
  simp only [hg, Bool.and_eq_true, List.all_eq_true] at hrange
  have hsome : (descriptor c m).isSome = true := hrange.2 m hm
  obtain ⟨e, he⟩ := Option.isSome_iff_exists.1 hsome
  have hbyte : (BitVec.ofNat 8 m).toNat = m := Nat.mod_eq_of_lt (descriptor_lt hids he)
  exact ⟨hbyte, by rw [inCatalogue, hbyte, hsome]⟩

/-- R128 (d): the nesting under a packet of the catalogue ends within the depth that `expand` goes. -/
theorem nestsWithin_length (hc : catalogueWf c = true) (hd : descriptor c id.toNat = some d) :
    nestsWithin c c.length id.toNat = true := by
  obtain ⟨-, -, -, hacyclic, -⟩ := catalogueWf_parts hc
  obtain ⟨hid, hmem⟩ := descriptor_some hd
  exact hid ▸ List.all_eq_true.1 hacyclic d hmem

/-- The nesting under a member of a group ends a level before the group's. -/
theorem nestsWithin_member {fuel : Nat} (h : nestsWithin c (fuel + 1) id.toNat = true)
    (hd : descriptor c id.toNat = some d) (hg : d.groupRange = some (first, last)) {m : Nat}
    (hm : m ∈ rangeIds first last) : nestsWithin c fuel m = true := by
  simp only [nestsWithin, hd, hg, List.all_eq_true] at h
  exact h m hm

/-- R128 (e): a group is as long as its members together. -/
theorem byteLength_group (hc : catalogueWf c = true) (hd : descriptor c id.toNat = some d)
    (hg : d.groupRange = some (first, last)) :
    byteLength c id = ((rangeIds first last).map fun m => byteLength c (BitVec.ofNat 8 m)).sum := by
  obtain ⟨-, -, -, -, hsums⟩ := catalogueWf_parts hc
  have hsum := List.all_eq_true.1 hsums d (descriptor_some hd).2
  simp only [hg, beq_iff_eq] at hsum
  rw [byteLength, hd]
  refine hsum.trans (congrArg List.sum (List.map_congr_left fun m hm => ?_))
  rw [byteLength, (member_inCatalogue hc hd hg hm).1]

/-- R124: a group expands to the expansions of its members. The members are expanded one level less deep in
`expandWithin`, which makes no difference as the nesting ends before. -/
theorem expand_group (hc : catalogueWf c = true) (hd : descriptor c id.toNat = some d)
    (hg : d.groupRange = some (first, last)) :
    expand c id = (rangeIds first last).flatMap fun m => expand c (BitVec.ofNat 8 m) := by
  have hdeeper : expand c id = expandWithin c (c.length + 1) id.toNat :=
    (expandWithin_stable (nestsWithin_length hc hd)).symm
  have hlevel : expandWithin c (c.length + 1) id.toNat = (rangeIds first last).flatMap (expandWithin c c.length) := by
    simp only [expandWithin, hd, hg]
  rw [hdeeper, hlevel]
  refine List.flatMap_congr fun m hm => ?_
  rw [expand, (member_inCatalogue hc hd hg hm).1]

end

/-! ### The length of an expansion -/

theorem sumLen_flatMap (c : Catalogue) (f : Nat → List Byte) (ms : List Nat) :
    sumLen c (ms.flatMap f) = (ms.map fun m => sumLen c (f m)).sum := by
  induction ms with
  | nil => rfl
  | cons m ms ih => simp [ih]

/-- R130, by induction on the depth of the nesting. -/
theorem sumLen_expand_of_nestsWithin {c : Catalogue} (hc : catalogueWf c = true) {fuel : Nat} {id : Byte}
    (hnest : nestsWithin c fuel id.toNat = true) (hin : inCatalogue c id = true) :
    sumLen c (expand c id) = byteLength c id := by
  induction fuel generalizing id with
  | zero => cases hnest
  | succ fuel ih =>
    obtain ⟨d, hd⟩ := Option.isSome_iff_exists.1 hin
    cases hg : d.groupRange with
    | none => simp [expand_atom (isAtom_of_descriptor hd hg)]
    | some range =>
      obtain ⟨first, last⟩ := range
      rw [expand_group hc hd hg, sumLen_flatMap, byteLength_group hc hd hg]
      refine congrArg List.sum (List.map_congr_left fun m hm => ?_)
      obtain ⟨hbyte, hmember⟩ := member_inCatalogue hc hd hg hm
      exact ih (hbyte.symm ▸ nestsWithin_member hnest hd hg hm) hmember

/-! ### The statements -/

/-- Settles O24: an atomic packet and a group each by its own law, and atoms only by the recursion of `expandWithin`. -/
theorem expansionFollowsTheRanges : Obligations.ExpansionFollowsTheRanges := by
  intro c id d hc hd
  obtain ⟨hids, -⟩ := catalogueWf_parts hc
  exact ⟨fun hg => expand_atom (isAtom_of_descriptor hd hg), fun first last hg => expand_group hc hd hg,
    expandWithin_atoms hids c.length id.toNat⟩

/-- Settles O25, by induction on the depth of the nesting, which ends in a well-formed catalogue. -/
theorem packetLengthIsTheSumOfItsAtoms : Obligations.PacketLengthIsTheSumOfItsAtoms := by
  intro c id hc hin
  obtain ⟨d, hd⟩ := Option.isSome_iff_exists.1 hin
  exact sumLen_expand_of_nestsWithin hc (nestsWithin_length hc hd) hin

end Sys2Proof.Machine

/-! PROOFS. The typed accessors (R220 to R224): `accessThen` by what the catalogue says of the id and by what the cache
holds, and the bit that a single-bit mask selects; the four operations are uses of these. -/
namespace Sys2Proof.Machine

/-! ### The access check -/

section
variable {i : Instr} {id : Byte} {len : Nat} {use : List Byte → ResData} {s : State}

/-- R220: an id that is no atomic packet of the accessor's width is refused. -/
theorem accessThen_refused (hbad : ¬ (isAtom s.cfg.catalogue id ∧ byteLength s.cfg.catalogue id = len)) :
    EndsIn (accessThen i id len use s) (s.failed i .invalidArgument .none) := by
  unfold accessThen
  split
  · exact endsIn_raise_accept _ _ _ s
  · next hknown =>
    have hatom : isAtom s.cfg.catalogue id := by simpa [isAtom] using hknown
    rw [if_pos fun hlen => hbad ⟨hatom, hlen⟩]
    exact endsIn_raise_accept _ _ _ s

/-- R43, R220: an entry never populated gives an error and no value. -/
theorem accessThen_notPopulated (hatom : isAtom s.cfg.catalogue id) (hlen : byteLength s.cfg.catalogue id = len)
    (hread : s.cache.read id.toNat = none) :
    EndsIn (accessThen i id len use s) (s.failed i .notPopulated .none) := by
  obtain ⟨hin, hsimple⟩ := hatom
  have hnext : accessThen i id len use s = .next ((s.accept i).raise .notPopulated .none) := by
    simp [accessThen, hin, hsimple, hlen, hread]
  rw [hnext]
  exact endsIn_raise_accept _ _ _ s

/-- R220: a populated entry is decoded by the accessor's own computation. -/
theorem accessThen_populated {d : List Byte} (hatom : isAtom s.cfg.catalogue id)
    (hlen : byteLength s.cfg.catalogue id = len) (hread : s.cache.read id.toNat = some d) (hd : d.length = len) :
    EndsIn (accessThen i id len use s) (s.ended i (use d)) := by
  obtain ⟨hin, hsimple⟩ := hatom
  have hnext : accessThen i id len use s = .next ((s.accept i).finish (use d)) := by
    simp [accessThen, hin, hsimple, hlen, hread, hd]
  rw [hnext]
  exact endsIn_finish_accept _ _ s

end

/-! ### Single-bit masks -/

/-- R221: the eight masks are the powers of two of a byte. -/
theorem isSingleBit_iff {mask : Byte} : isSingleBit mask = true ↔ ∃ k < 8, mask = BitVec.ofNat 8 (2 ^ k) := by
  have hmasks : [0x01#8, 0x02#8, 0x04#8, 0x08#8, 0x10#8, 0x20#8, 0x40#8, 0x80#8] =
      (List.range 8).map fun k => BitVec.ofNat 8 (2 ^ k) := by decide
  rw [isSingleBit, hmasks]
  simp [eq_comm]

/-- R221: the mask `2 ^ k` selects bit `k`. -/
theorem testBit_twoPow (b : Byte) {k : Nat} (hk : k < 8) : testBit b (BitVec.ofNat 8 (2 ^ k)) = b.getLsbD k := by
  have hmask : BitVec.ofNat 8 (2 ^ k) = BitVec.twoPow 8 k := BitVec.eq_of_toNat_eq (by simp [BitVec.toNat_twoPow])
  have hnonzero : BitVec.twoPow 8 k ≠ 0#8 := fun h => by
    have hbit := congrArg (·.getLsbD k) h
    simp [hk] at hbit
  rw [testBit, hmask, BitVec.and_twoPow]
  cases b.getLsbD k <;> simp [hnonzero]

/-- R221: GET_BIT with a mask that is no single bit is refused. -/
theorem execGetBit_badMask {mask : Byte} (hmask : ∀ k : Nat, k < 8 → mask ≠ BitVec.ofNat 8 (2 ^ k)) (id : Byte)
    (s : State) : EndsIn (execGetBit id mask s) (s.failed (.getBit id mask) .invalidArgument .none) := by
  have hbad : ¬ isSingleBit mask = true := fun h => by
    obtain ⟨k, hk, heq⟩ := isSingleBit_iff.1 h
    exact hmask k hk heq
  rw [execGetBit, if_neg hbad]
  exact endsIn_raise_accept _ _ _ s

/-- R221: with a single-bit mask, GET_BIT is the access check followed by the bit. -/
theorem execGetBit_singleBit {k : Nat} (hk : k < 8) (id : Byte) (s : State) :
    execGetBit id (BitVec.ofNat 8 (2 ^ k)) s =
      accessThen (.getBit id (BitVec.ofNat 8 (2 ^ k))) id 1 (dataBit (BitVec.ofNat 8 (2 ^ k))) s :=
  if_pos (isSingleBit_iff.2 ⟨k, hk, rfl⟩)

/-- R220, R221: GET_BIT of an id that is no atomic packet of one byte is refused, whatever the mask. -/
theorem execGetBit_refused {id : Byte} {s : State}
    (hbad : ¬ (isAtom s.cfg.catalogue id ∧ byteLength s.cfg.catalogue id = 1)) (mask : Byte) :
    EndsIn (execGetBit id mask s) (s.failed (.getBit id mask) .invalidArgument .none) := by
  unfold execGetBit
  split
  · exact accessThen_refused hbad
  · exact endsIn_raise_accept _ _ _ s

/-- R43, R221: GET_BIT of an entry never populated. -/
theorem execGetBit_notPopulated {id : Byte} {s : State} {k : Nat} (hatom : isAtom s.cfg.catalogue id)
    (hlen : byteLength s.cfg.catalogue id = 1) (hread : s.cache.read id.toNat = none) (hk : k < 8) :
    EndsIn (execGetBit id (BitVec.ofNat 8 (2 ^ k)) s)
      (s.failed (.getBit id (BitVec.ofNat 8 (2 ^ k))) .notPopulated .none) := by
  rw [execGetBit_singleBit hk]
  exact accessThen_notPopulated hatom hlen hread

/-- R221: GET_BIT of a populated entry answers the bit that the mask selects. -/
theorem execGetBit_populated {id b : Byte} {s : State} {k : Nat} (hatom : isAtom s.cfg.catalogue id)
    (hlen : byteLength s.cfg.catalogue id = 1) (hread : s.cache.read id.toNat = some [b]) (hk : k < 8) :
    EndsIn (execGetBit id (BitVec.ofNat 8 (2 ^ k)) s)
      (s.ended (.getBit id (BitVec.ofNat 8 (2 ^ k))) (.bool (b.getLsbD k))) := by
  rw [execGetBit_singleBit hk, ← testBit_twoPow b hk]
  exact accessThen_populated hatom hlen hread rfl

/-! ### The statement -/

/-- Settles O45: clause by clause what `accessThen` answers, for the masks of GET_BIT through bit `k` of the byte. -/
theorem accessorsAnswerEveryCase : Obligations.AccessorsAnswerEveryCase := by
  refine ⟨fun _ _ => ⟨rfl, rfl, rfl, rfl⟩, fun s id hbad => ?_, fun s id hbad => ?_,
    fun s id mask hmask => execGetBit_badMask hmask id s, fun s id hatom hlen => ⟨fun hread => ?_, fun b hread => ?_⟩,
    fun s id hatom hlen => ⟨fun hread => ?_, fun h l hread => ?_⟩⟩
  · exact ⟨accessThen_refused hbad, execGetBit_refused hbad⟩
  · exact ⟨accessThen_refused hbad, accessThen_refused hbad⟩
  · exact ⟨accessThen_notPopulated hatom hlen hread, fun k hk => execGetBit_notPopulated hatom hlen hread hk⟩
  · exact ⟨accessThen_populated hatom hlen hread rfl, fun k hk => execGetBit_populated hatom hlen hread hk⟩
  · exact ⟨accessThen_notPopulated hatom hlen hread, accessThen_notPopulated hatom hlen hread⟩
  · exact ⟨accessThen_populated hatom hlen hread rfl, accessThen_populated hatom hlen hread rfl⟩

end Sys2Proof.Machine

/-! PROOFS. The s16 operands out of range (R103, R237, U1): one of them anywhere among the operands of a wire operation
leaves the operation without an outcome, so every operation that marshals an s16 is a use of one lemma. -/
namespace Sys2Proof.Machine

section
variable {v : Int} (hv : v < -32768 ∨ 32767 < v)
include hv

/-- R180: one s16 operand out of range is enough for the operands not to be all in range. -/
theorem not_all_inRange_of_mem {ops : List Operand} (hmem : .s16 v ∈ ops) : ¬ ops.all Operand.inRange = true := by
  intro hall
  obtain ⟨hlo, hhi⟩ := inS16_iff.1 (List.all_eq_true.1 hall _ hmem)
  omega

/-- R237: a wire operation whose check passes is refused before anything is latched or sent, whatever its command table
row is and whatever would come after. -/
theorem emitThen_s16OutOfRange {i : Instr} {after : State → State} {s : State} (hmem : .s16 v ∈ i.operands) :
    emitThen i true after s = .refused .s16OutOfRange := by
  rw [emitThen, if_pos rfl, if_neg (not_all_inRange_of_mem hv hmem)]

/-- U1: ENC16 of a value that has no pair. -/
theorem execEnc16_s16OutOfRange (s : State) : execEnc16 v s = .refused .s16OutOfRange := by
  simp only [execEnc16, enc16_of_outOfRange hv]

end

/-- Settles O12: ENC16 has no pair to answer, and the others are wire operations with `v` as first or second operand. -/
theorem outOfRangeSignedOperandIsRefused : Obligations.OutOfRangeSignedOperandIsRefused := by
  intro s v w hv
  have hfirst : ∀ ops, Operand.s16 v ∈ .s16 v :: ops := fun _ => List.mem_cons_self
  have hsecond : Operand.s16 v ∈ [.s16 w, .s16 v] := List.mem_cons_of_mem _ (hfirst [])
  exact ⟨execEnc16_s16OutOfRange hv s,
    emitThen_s16OutOfRange hv (hfirst _), emitThen_s16OutOfRange hv hsecond,
    emitThen_s16OutOfRange hv (hfirst _), emitThen_s16OutOfRange hv hsecond,
    emitThen_s16OutOfRange hv (hfirst _), emitThen_s16OutOfRange hv hsecond,
    emitThen_s16OutOfRange hv (hfirst _), emitThen_s16OutOfRange hv (hfirst _)⟩

end Sys2Proof.Machine

/-! PROOFS. Reset (R261): the values the rule gives, and the configuration as the only part of the state after reset
that depends on the instance. -/
namespace Sys2Proof.Machine

/-- R14, R41: the cache that lists no entry has no valid bit set. -/
@[simp] theorem Memory.valid_nil (id : Nat) : Memory.valid [] id = false := rfl

/-- R261: the configuration, `PVER` with it, reaches no register's reset value. -/
theorem State.resetWith_eq_with_cfg (c d : Config) : State.resetWith d = { State.resetWith c with cfg := d } := rfl

/-- Settles O46: MODE, SREQ_N and PHASE are constants of `State.resetWith`, and its cache lists no entry. -/
theorem resetLeavesTheBlockEmpty : Obligations.ResetLeavesTheBlockEmpty := by
  refine ⟨fun c => ?_, State.resetWith_eq_with_cfg⟩
  have hmode : (State.resetWith c).mode = .off := rfl
  have hsreq : (State.resetWith c).sreqN = 0#8 := rfl
  have hphase : (State.resetWith c).phase = .idle := rfl
  exact ⟨hmode, hsreq, hphase, Memory.valid_nil⟩

end Sys2Proof.Machine

/-! PROOFS. The operations by family (R80): a wire operation is `emitThen` with its own check, and what an operation
does up to the point where it reads RX is said once, for all of them, in `ExecCase`. -/
namespace Sys2Proof.Machine

/-! ### What an operation leaves behind -/

/-- R239, R231: the state in which an operation that never reads RX ends with the result `r`. -/
def State.concluded (i : Instr) (r : ResLatch) (s : State) : State :=
  { s with cmd := ⟨i.sel, i.operands⟩, phase := .idle, res := r, work := Work.cleared }

theorem State.raise_accept (i : Instr) (status : Status) (sub : SubCause) (s : State) :
    (s.accept i).raise status sub = s.concluded i ⟨status, sub, .none⟩ := rfl

theorem State.finish_accept (i : Instr) (data : ResData) (s : State) :
    (s.accept i).finish data = s.concluded i ⟨.ok, .none, data⟩ := rfl

theorem State.raise_emitted (i : Instr) (bs : List Byte) (fates : List Bool) (status : Status) (sub : SubCause)
    (s : State) :
    (s.emitted i bs fates).raise status sub =
      ({ s with txLog := s.txLog ++ bs, txFates := fates } : State).concluded i ⟨status, sub, .none⟩ := rfl

/-- What a sent command leaves in MODE: its own mode for the four mode operations (R110), the old one otherwise. -/
def modeAfter : Instr → OperatingMode → OperatingMode
  | .modePassive, _ => .passive
  | .modeSafe, _ => .safe
  | .modeFull, _ => .full
  | .modeOff, _ => .off
  | _, old => old

/-- What a sent command leaves in SREQ: its own list for STREAM_START (R151), the old one otherwise. -/
def sreqAfter : Instr → List Byte → List Byte
  | .streamStart ids, _ => ids
  | _, old => old

theorem modeAfter_of_not_setsMode {i : Instr} (h : i.setsMode = false) (m : OperatingMode) : modeAfter i m = m := by
  cases i with
  | modePassive | modeSafe | modeFull | modeOff => cases h
  | _ => rfl

theorem modeAfter_of_setsMode {i : Instr} (h : i.setsMode = true) (m n : OperatingMode) :
    modeAfter i m = modeAfter i n := by
  obtain ⟨target, rfl⟩ := setsMode_iff.1 h
  cases target <;> rfl

theorem sreqAfter_of_not_setsSreq {i : Instr} (h : i.setsSreq = false) (old : List Byte) : sreqAfter i old = old := by
  cases i with
  | streamStart => cases h
  | _ => rfl

theorem sreqAfter_of_setsSreq {i : Instr} (h : i.setsSreq = true) (xs ys : List Byte) :
    sreqAfter i xs = sreqAfter i ys := by
  obtain ⟨ids, rfl⟩ := setsSreq_iff.1 h
  rfl

/-- R110, R151, R180: a command that reads no response is recorded and ends with OK. -/
def State.recorded (i : Instr) (s : State) : State :=
  State.finish .none { s with mode := modeAfter i s.mode, sreq := sreqAfter i s.sreq }


/-! ### A wire operation is its check, its command, and what comes after -/

/-- R135: what the two request operations read, and READ_FRAME expects: their ids. -/
def requestedIds : Instr → List Byte
  | .readPacket id => [id]
  | .readPacketList ids | .readFrame ids => ids
  | _ => []

/-- R153: the state in which READ_FRAME begins to hunt. -/
def State.hunting (ids : List Byte) (s : State) : State := (s.accept (.readFrame ids)).startHunt ids

/-- R136, R137: the response to a request. -/
def State.respond (i : Instr) (s : State) : State :=
  (s.startResp (expandList s.cfg.catalogue (requestedIds i))).runRx

theorem expandList_singleton (c : Catalogue) (id : Byte) : expandList c [id] = expand c id :=
  (expandList_cons c id []).trans (List.append_nil _)

theorem totalLen_singleton (c : Catalogue) (id : Byte) : totalLen c [id] = sumLen c (expand c id) := by
  rw [totalLen, expandList_singleton]

/-- R181: the twelve rates are those the enumeration has. -/
theorem execSetBaud_eq (code : BitVec 4) (s : State) :
    execSetBaud code s = emitThen (.setBaud code) (s.accepts (.setBaud code)) (State.recorded (.setBaud code)) s := by
  have hrate : decide (code.toNat < nBaud) = decide (code.toNat ≤ 11) := decide_eq_decide.2 Nat.lt_succ_iff
  rw [execSetBaud, emitOnly, hrate]
  rfl

/-- R71: the seven operations that send nothing; all others are wire operations. -/
def isLocal : Instr → Bool
  | .enc16 _ | .dec16 _ _ | .readFrame _ | .getBit _ _ | .getU8 _ | .getS16 _ | .getU16 _ => true
  | _ => false

theorem isWire_eq_not_isLocal (i : Instr) : i.isWire = !isLocal i := by
  have hmsb : ∀ b : Byte, b.msb = decide (128 ≤ b.toNat) := BitVec.msb_eq_decide
  rw [Instr.isWire, hmsb]
  cases i <;> rfl

/-- R180, R110, R151: a wire operation that reads no response. -/
theorem exec_command {i : Instr} (hw : i.isWire = true) (hr : i.readsSensors = false) (s : State) :
    exec i s = emitThen i (s.accepts i) (State.recorded i) s := by
  rw [isWire_eq_not_isLocal] at hw
  cases i with
  | readPacket | readPacketList => cases hr
  | enc16 | dec16 | readFrame | getBit | getU8 | getS16 | getU16 => cases hw
  | setBaud code => exact execSetBaud_eq code s
  | _ => rfl

/-- R135: a wire operation that reads a response. -/
theorem exec_request {i : Instr} (hw : i.isWire = true) (hr : i.readsSensors = true) (s : State) :
    exec i s = emitThen i (s.accepts i) (State.respond i) s := by
  rw [isWire_eq_not_isLocal] at hw
  cases i with
  | readPacket id =>
    have hafter : State.respond (.readPacket id) = fun t => (t.startResp (expand t.cfg.catalogue id)).runRx :=
      funext fun t => by rw [State.respond, requestedIds, expandList_singleton]
    rw [hafter]
    rfl
  | readPacketList => rfl
  | readFrame => cases hw
  | _ => cases hr

/-! ### Writing, for every state with the same fates -/

/-- R22: what writing a command does is a matter of the fates of the coming writes alone, of which it takes some from
the front: the transport takes all bytes, or fails the one after the first `k`. -/
theorem txBytes_uniform (bs : List Byte) (fates : List Bool) :
    ∃ gone left, fates = gone ++ left ∧
      ((∀ t : State, t.txFates = fates → t.txBytes bs = (true, t.wrote bs left)) ∨
       ∃ k < bs.length, ∀ t : State, t.txFates = fates → t.txBytes bs = (false, t.wrote (bs.take k) left)) := by
  induction bs generalizing fates with
  | nil => exact ⟨[], fates, rfl, .inl fun t ht => by rw [← ht, State.wrote_nil]; rfl⟩
  | cons b bs ih =>
    cases fates with
    | nil =>
      refine ⟨[], [], rfl, .inl fun t ht => ?_⟩
      have hall : t.writesOk (b :: bs).length := by simp [State.writesOk, ht]
      rw [State.txBytes_ok _ hall, ht, List.drop_nil]
    | cons f fates =>
      cases f with
      | false =>
        refine ⟨[false], fates, rfl, .inr ⟨0, Nat.succ_pos _, fun t ht => ?_⟩⟩
        exact State.txBytes_fail (k := 0) (b :: bs) (Nat.succ_pos _) ht
      | true =>
        have hstep : ∀ t : State, t.txFates = true :: fates →
            t.txBytes (b :: bs) = (t.wrote [b] fates).txBytes bs := fun t ht => by
          rw [State.txBytes, State.txWrite, ht]
        obtain ⟨gone, left, rfl, hok | ⟨k, hk, hfail⟩⟩ := ih fates
        · refine ⟨true :: gone, left, rfl, .inl fun t ht => ?_⟩
          rw [hstep t ht, hok _ rfl, State.wrote_wrote]
          rfl
        · refine ⟨true :: gone, left, rfl, .inr ⟨k + 1, Nat.succ_lt_succ hk, fun t ht => ?_⟩⟩
          rw [hstep t ht, hfail _ rfl, State.wrote_wrote]
          rfl

/-- The parts of the state an operation consults before it reads RX: the configuration, the cache, and the fates of the
writes to come. -/
structure State.looksLike (s t : State) : Prop where
  cfg : t.cfg = s.cfg
  cache : t.cache = s.cache
  txFates : t.txFates = s.txFates

theorem State.looksLike_refl (s : State) : s.looksLike s := ⟨rfl, rfl, rfl⟩

/-- Everything a wire operation can do up to the end of its writing, for every state that looks like `s`. -/
inductive EmitCase (i : Instr) (check : Bool) (s : State) : Prop where
  | invalid (hcheck : check = false)
      (h : ∀ after t, emitThen i check after t = .next (t.concluded i ⟨.invalidArgument, .none, .none⟩))
  | outOfRange (hcheck : check = true) (h : ∀ after t, emitThen i check after t = .refused .s16OutOfRange)
  | noCommand (hcheck : check = true) (hrange : i.operands.all Operand.inRange = true)
      (hnone : commandBytes s.cfg.cmdtab i = none)
      (h : ∀ after t, s.looksLike t → emitThen i check after t = .refused .commandTable)
  | failed (hcheck : check = true) (bs : List Byte) (gone fates : List Bool) (hfates : s.txFates = gone ++ fates)
      (h : ∀ after t, s.looksLike t → emitThen i check after t =
        .next (({ t with txLog := t.txLog ++ bs, txFates := fates } : State).concluded i
          ⟨.transportFailure, .none, .none⟩))
  | sent (hcheck : check = true) (bs : List Byte) (gone fates : List Bool) (hfates : s.txFates = gone ++ fates)
      (h : ∀ after t, s.looksLike t → emitThen i check after t = .next (after (t.emitted i bs fates)))

theorem emitCase (i : Instr) (check : Bool) (s : State) : EmitCase i check s := by
  cases hcheck : check with
  | false => exact .invalid rfl fun _ _ => rfl
  | true =>
    by_cases hrange : i.operands.all Operand.inRange = true
    · cases hb : commandBytes s.cfg.cmdtab i with
      | none =>
        refine .noCommand rfl hrange hb fun after t ht => ?_
        simp only [emitThen, if_true, hrange, ht.cfg, hb]
      | some bs =>
        obtain ⟨gone, fates, hfates, hok | ⟨k, -, hfail⟩⟩ := txBytes_uniform bs s.txFates
        · refine .sent rfl bs gone fates hfates fun after t ht => ?_
          simp only [emitThen, if_true, hrange, ht.cfg, hb, hok _ (show (t.accept i).startEmit.txFates = _ from ht.txFates),
            State.accept_wrote]
        · refine .failed rfl (bs.take k) gone fates hfates fun after t ht => ?_
          simp only [emitThen, if_true, hrange, ht.cfg, hb,
            hfail _ (show (t.accept i).startEmit.txFates = _ from ht.txFates), State.accept_wrote, State.raise_emitted]
    · exact .outOfRange rfl fun after t => by rw [emitThen, if_pos rfl, if_neg hrange]

/-! ### The accessors -/

/-- Everything the access check can lead to (R220), for every state that looks like `s`. -/
inductive AccessCase (i : Instr) (id : Byte) (len : Nat) (use : List Byte → ResData) (s : State) : Prop where
  | invalid (hcheck : (inCatalogue s.cfg.catalogue id && !isComposite s.cfg.catalogue id &&
        byteLength s.cfg.catalogue id == len) = false)
      (h : ∀ t, s.looksLike t → accessThen i id len use t = .next (t.concluded i ⟨.invalidArgument, .none, .none⟩))
  | notPopulated (hcheck : (inCatalogue s.cfg.catalogue id && !isComposite s.cfg.catalogue id &&
        byteLength s.cfg.catalogue id == len) = true)
      (h : ∀ t, s.looksLike t → accessThen i id len use t = .next (t.concluded i ⟨.notPopulated, .none, .none⟩))
  | wrongLength (hcheck : (inCatalogue s.cfg.catalogue id && !isComposite s.cfg.catalogue id &&
        byteLength s.cfg.catalogue id == len) = true) (d : List Byte) (hread : s.cache.read id.toNat = some d)
      (hlen : d.length ≠ byteLength s.cfg.catalogue id)
      (h : ∀ t, s.looksLike t → accessThen i id len use t = .fault .cacheEntryLength)
  | answered (hcheck : (inCatalogue s.cfg.catalogue id && !isComposite s.cfg.catalogue id &&
        byteLength s.cfg.catalogue id == len) = true) (data : ResData)
      (h : ∀ t, s.looksLike t → accessThen i id len use t = .next (t.concluded i ⟨.ok, .none, data⟩))

theorem accessCase (i : Instr) (id : Byte) (len : Nat) (use : List Byte → ResData) (s : State) :
    AccessCase i id len use s := by
  cases hcheck : (inCatalogue s.cfg.catalogue id && !isComposite s.cfg.catalogue id &&
      byteLength s.cfg.catalogue id == len) with
  | false =>
    refine .invalid hcheck fun t ht => ?_
    rw [accessThen, ht.cfg]
    split
    · rfl
    · next hknown =>
      have hlen : byteLength s.cfg.catalogue id ≠ len := fun hlen => by simp_all
      rw [if_pos hlen]
      rfl
  | true =>
    obtain ⟨⟨hin, hatom⟩, hlen⟩ := by simpa using hcheck
    cases hread : s.cache.read id.toNat with
    | none =>
      refine .notPopulated hcheck fun t ht => ?_
      simp [accessThen, ht.cfg, ht.cache, hin, hatom, hlen, hread, State.raise_accept]
    | some d =>
      by_cases hd : d.length = len
      · refine .answered hcheck (use d) fun t ht => ?_
        simp [accessThen, ht.cfg, ht.cache, hin, hatom, hlen, hread, hd, State.finish_accept]
      · refine .wrongLength hcheck d hread (hlen ▸ hd) fun t ht => ?_
        simp [accessThen, ht.cfg, ht.cache, hin, hatom, hlen, hread, hd]

/-! ### Everything an operation can do up to the point where it reads RX -/

/-- What operation `i` does to a state, by the outcome; each holds for every state that looks like `s`, so that it also
says what the operation does not depend on. -/
inductive ExecCase (i : Instr) (s : State) : Prop where
  /-- R232: the operand check fails. -/
  | invalid (hacc : s.accepts i = false)
      (h : ∀ t, s.looksLike t → exec i t = .next (t.concluded i ⟨.invalidArgument, .none, .none⟩))
  /-- R237: an s16 operand is out of range. -/
  | outOfRange (hacc : s.accepts i = true) (h : ∀ t, s.looksLike t → exec i t = .refused .s16OutOfRange)
  /-- R199: the command table does not fit. -/
  | noCommand (hacc : s.accepts i = true) (hwire : i.isWire = true) (hrange : i.operands.all Operand.inRange = true)
      (hnone : commandBytes s.cfg.cmdtab i = none) (h : ∀ t, s.looksLike t → exec i t = .refused .commandTable)
  /-- R43: a cache entry has another length than its packet. -/
  | wrongLength (hacc : s.accepts i = true) (id : Byte) (d : List Byte) (hread : s.cache.read id.toNat = some d)
      (hlen : d.length ≠ byteLength s.cfg.catalogue id) (h : ∀ t, s.looksLike t → exec i t = .fault .cacheEntryLength)
  /-- R236: an accessor of an entry never populated. -/
  | notPopulated (hacc : s.accepts i = true) (haccessor : i.isAccessor = true)
      (h : ∀ t, s.looksLike t → exec i t = .next (t.concluded i ⟨.notPopulated, .none, .none⟩))
  /-- R104, R220: an operation that sends nothing answers. -/
  | answered (hacc : s.accepts i = true) (hlocal : i.isWire = false) (data : ResData)
      (h : ∀ t, s.looksLike t → exec i t = .next (t.concluded i ⟨.ok, .none, data⟩))
  /-- R233: the transport fails a byte of the command. -/
  | writeFailed (hacc : s.accepts i = true) (hwire : i.isWire = true) (bs : List Byte) (gone fates : List Bool)
      (hfates : s.txFates = gone ++ fates)
      (h : ∀ t, s.looksLike t → exec i t =
        .next (({ t with txLog := t.txLog ++ bs, txFates := fates } : State).concluded i
          ⟨.transportFailure, .none, .none⟩))
  /-- R180: the command is sent, and there is nothing to read. -/
  | sent (hacc : s.accepts i = true) (bs : List Byte) (gone fates : List Bool) (hfates : s.txFates = gone ++ fates)
      (h : ∀ t, s.looksLike t → exec i t = .next ((t.emitted i bs fates).recorded i))
  /-- R135: the request is sent, and its response is read. -/
  | requested (hacc : s.accepts i = true) (hwire : i.isWire = true) (hreads : i.readsSensors = true) (bs : List Byte)
      (gone fates : List Bool) (hfates : s.txFates = gone ++ fates)
      (h : ∀ t, s.looksLike t → exec i t = .next ((t.emitted i bs fates).respond i))
  /-- R153: READ_FRAME hunts for a frame. -/
  | hunts (hacc : s.accepts i = true) (ids : List Byte) (hi : i = .readFrame ids)
      (h : ∀ t, s.looksLike t → exec i t = .next (t.hunting ids).runRx)

theorem execCase_of_emitThen {i : Instr} {s : State} {after : State → State} (hwire : i.isWire = true)
    (hexec : ∀ t, s.looksLike t → exec i t = emitThen i (s.accepts i) after t)
    (hsent : s.accepts i = true → ∀ (bs : List Byte) (gone fates : List Bool), s.txFates = gone ++ fates →
      (∀ t, s.looksLike t → exec i t = .next (after (t.emitted i bs fates))) → ExecCase i s) : ExecCase i s := by
  cases emitCase i (s.accepts i) s with
  | invalid hacc h => exact .invalid hacc fun t ht => (hexec t ht).trans (h _ _)
  | outOfRange hacc h => exact .outOfRange hacc fun t ht => (hexec t ht).trans (h _ _)
  | noCommand hacc hrange hnone h =>
    exact .noCommand hacc hwire hrange hnone fun t ht => (hexec t ht).trans (h _ _ ht)
  | failed hacc bs gone fates hfates h =>
    exact .writeFailed hacc hwire bs gone fates hfates fun t ht => (hexec t ht).trans (h _ _ ht)
  | sent hacc bs gone fates hfates h =>
    exact hsent hacc bs gone fates hfates fun t ht => (hexec t ht).trans (h _ _ ht)

theorem execCase_of_accessThen {i : Instr} {id : Byte} {len : Nat} {use : List Byte → ResData} {s : State}
    (hlocal : i.isWire = false) (haccessor : i.isAccessor = true)
    (hacc : s.accepts i = (inCatalogue s.cfg.catalogue id && !isComposite s.cfg.catalogue id &&
      byteLength s.cfg.catalogue id == len))
    (hexec : ∀ t, exec i t = accessThen i id len use t) : ExecCase i s := by
  cases accessCase i id len use s with
  | invalid hcheck h => exact .invalid (hacc.trans hcheck) fun t ht => (hexec t).trans (h t ht)
  | notPopulated hcheck h => exact .notPopulated (hacc.trans hcheck) haccessor fun t ht => (hexec t).trans (h t ht)
  | wrongLength hcheck d hread hlen h =>
    exact .wrongLength (hacc.trans hcheck) id d hread hlen fun t ht => (hexec t).trans (h t ht)
  | answered hcheck data h => exact .answered (hacc.trans hcheck) hlocal data fun t ht => (hexec t).trans (h t ht)

/-- R232: what the operand checks consult is the configuration. -/
theorem State.accepts_of_looksLike {s t : State} (h : s.looksLike t) (i : Instr) : t.accepts i = s.accepts i := by
  unfold State.accepts
  rw [h.cfg]

theorem execCase_of_isWire {i : Instr} (hwire : i.isWire = true) (s : State) : ExecCase i s := by
  cases hreads : i.readsSensors with
  | false =>
    refine execCase_of_emitThen hwire (fun t ht => ?_) fun hacc bs gone fates hfates h =>
      .sent hacc bs gone fates hfates h
    rw [exec_command hwire hreads, State.accepts_of_looksLike ht]
  | true =>
    refine execCase_of_emitThen hwire (fun t ht => ?_) fun hacc bs gone fates hfates h =>
      .requested hacc hwire hreads bs gone fates hfates h
    rw [exec_request hwire hreads, State.accepts_of_looksLike ht]

theorem execCase_enc16 (v : Int) (s : State) : ExecCase (.enc16 v) s := by
  cases henc : enc16 v with
  | none => exact .outOfRange rfl fun t _ => by simp only [exec, execEnc16, henc]
  | some p => exact .answered rfl (isWire_eq_not_isLocal _) (.pair p.1 p.2) fun t _ => execEnc16_of_enc16 henc t

theorem execCase_readFrame (ids : List Byte) (s : State) : ExecCase (.readFrame ids) s := by
  have hids : ∀ t, s.looksLike t → ids.all (inCatalogue t.cfg.catalogue) = s.accepts (.readFrame ids) :=
    fun t ht => State.accepts_of_looksLike ht (.readFrame ids)
  cases hacc : s.accepts (.readFrame ids) with
  | false =>
    refine .invalid hacc fun t ht => ?_
    simp only [exec, execReadFrame, hids t ht, hacc]
    rfl
  | true =>
    refine .hunts hacc ids rfl fun t ht => ?_
    simp only [exec, execReadFrame, hids t ht, hacc, if_true, State.hunting]

theorem execCase_getBit (id mask : Byte) (s : State) : ExecCase (.getBit id mask) s := by
  cases hmask : isSingleBit mask with
  | true =>
    refine execCase_of_accessThen (id := id) (len := 1) (use := dataBit mask) (isWire_eq_not_isLocal _) rfl ?_ fun t => ?_
    · simp only [State.accepts, hmask, Bool.true_and]
    · simp only [exec, execGetBit, hmask, if_true]
  | false =>
    refine .invalid (by simp only [State.accepts, hmask, Bool.false_and]) fun t _ => ?_
    simp only [exec, execGetBit, hmask]
    rfl

/-- R80: every operation does one of these. -/
theorem execCase (i : Instr) (s : State) : ExecCase i s := by
  cases i with
  | enc16 v => exact execCase_enc16 v s
  | dec16 high low => exact .answered rfl (isWire_eq_not_isLocal _) (.int (dec16 high low)) fun t _ => rfl
  | readFrame ids => exact execCase_readFrame ids s
  | getBit id mask => exact execCase_getBit id mask s
  | getU8 | getS16 | getU16 => exact execCase_of_accessThen (isWire_eq_not_isLocal _) rfl rfl fun t => rfl
  | _ => exact execCase_of_isWire (isWire_eq_not_isLocal _) s

end Sys2Proof.Machine

/-! PROOFS. Reading from RX, item by item: the inductions over what is read, packaged once, and the two things that
can come of a list of items: the block still waits, or it has ended and left the rest. -/
namespace Sys2Proof.Machine

/-! ### One equation for each phase -/

section
variable {s : State}

theorem State.settle_hunt (h : s.phase = .hunt) :
    s.settle = if s.work.disc = s.work.total then s.raise .protocolDesync .none else s := by
  rw [State.settle, h]

theorem State.settle_resp (h : s.phase = .resp) :
    s.settle = if s.work.alist.length ≤ s.work.idx then s.commitStage else s := by
  rw [State.settle, h]

/-- Only a hunt and a response have something to settle. -/
theorem State.settle_eq_self (hhunt : s.phase ≠ .hunt) (hresp : s.phase ≠ .resp) : s.settle = s := by
  rcases s.settle_cases with h | ⟨hphase, -⟩ | ⟨hphase, -⟩
  · exact h
  · exact absurd hphase hhunt
  · exact absurd hphase hresp

theorem State.onItem_resp (h : s.phase = .resp) (b : Byte) : s.onItem (.byte b) = s.onResp b := by
  simp only [State.onItem, h]

theorem State.onItem_hunt (h : s.phase = .hunt) (b : Byte) : s.onItem (.byte b) = s.onHunt b := by
  simp only [State.onItem, h]

theorem State.onItem_flen (h : s.phase = .flen) (b : Byte) : s.onItem (.byte b) = s.onFlen b := by
  simp only [State.onItem, h]

theorem State.onItem_pid (h : s.phase = .pid) (b : Byte) : s.onItem (.byte b) = s.onPid b := by
  simp only [State.onItem, h]

theorem State.onItem_pdata (h : s.phase = .pdata) (b : Byte) : s.onItem (.byte b) = s.onPdata b := by
  simp only [State.onItem, h]

theorem State.onItem_fchk (h : s.phase = .fchk) (b : Byte) : s.onItem (.byte b) = s.onFchk b := by
  simp only [State.onItem, h]

end

/-! ### Inductions over the items -/

/-- What `settle` and every item keep, reading keeps. `P` is what holds before the block settles, `Q` after. -/
theorem pump_induction {P Q : State → Prop} (hsettle : ∀ s, P s → Q s.settle)
    (hitem : ∀ item s, Q s → s.phase.waits = true → P (s.onItem item)) (hrx : ∀ rx s, Q s → Q (s.withRx rx))
    (hraise : ∀ s, Q s → Q (s.raise .transportFailure .none)) (items : List RxItem) {s : State} (hs : P s) :
    Q (State.pump items s) := by
  induction items generalizing s with
  | nil =>
    simp only [State.pump]
    split
    · unfold State.rxExhausted
      split
      · exact hrx _ _ (hsettle s hs)
      · exact hraise _ (hrx _ _ (hsettle s hs))
    · exact hrx _ _ (hsettle s hs)
  | cons item items ih =>
    simp only [State.pump]
    split
    · next hw => exact ih (hitem item _ (hsettle s hs) hw)
    · exact hrx _ _ (hsettle s hs)

/-- A relation that `settle` and every item keep, reading keeps; related states are in the same phase. -/
theorem pump_rel {R : State → State → Prop} (hphase : ∀ s t, R s t → t.phase = s.phase)
    (hsettle : ∀ s t, R s t → R s.settle t.settle)
    (hitem : ∀ item s t, R s t → s.phase.waits = true → R (s.onItem item) (t.onItem item))
    (hexhausted : ∀ s t, R s t → s.phase.waits = true → R s.rxExhausted t.rxExhausted)
    (hrx : ∀ rx s t, R s t → R (s.withRx rx) (t.withRx rx)) (items : List RxItem) {s t : State} (hst : R s t) :
    R (State.pump items s) (State.pump items t) := by
  induction items generalizing s t with
  | nil =>
    have hsettled := hsettle s t hst
    simp only [State.pump, hphase _ _ hsettled]
    split
    · next hw => exact hexhausted _ _ hsettled hw
    · exact hrx _ _ _ hsettled
  | cons item items ih =>
    have hsettled := hsettle s t hst
    simp only [State.pump, hphase _ _ hsettled]
    split
    · next hw => exact ih (hitem item _ _ hsettled hw)
    · exact hrx _ _ _ hsettled

/-! ### A block that goes on reading -/

/-- `t` is `s` further on in the same operation: only PHASE and the working registers differ, and not the expected
packets. -/
def State.goesOn (s t : State) : Prop := ∃ p w, t = { s with phase := p, work := w } ∧ w.alist = s.work.alist

theorem State.goesOn_refl (s : State) : s.goesOn s := ⟨s.phase, s.work, rfl, rfl⟩

theorem State.goesOn.trans {s t u : State} (hst : s.goesOn t) (htu : t.goesOn u) : s.goesOn u := by
  obtain ⟨p, w, rfl, hw⟩ := hst
  obtain ⟨q, v, rfl, hv⟩ := htu
  exact ⟨q, v, rfl, hv.trans hw⟩

theorem State.goesOn.alist {s t : State} (h : s.goesOn t) : t.work.alist = s.work.alist := by
  obtain ⟨p, w, rfl, hw⟩ := h
  exact hw

theorem State.goesOn.cfg {s t : State} (h : s.goesOn t) : t.cfg = s.cfg := by
  obtain ⟨p, w, rfl, -⟩ := h
  rfl

theorem State.goesOn.frameIds {s t : State} (h : s.goesOn t) : t.frameIds = s.frameIds := by
  obtain ⟨p, w, rfl, hw⟩ := h
  simp only [State.frameIds, hw]

/-- A block that still waits once it has settled did nothing. -/
theorem State.settle_eq_of_waits {s : State} (h : s.settle.phase.waits = true) : s.settle = s := by
  rcases s.settle_cases with hs | ⟨-, -, hs⟩ | ⟨-, -, hs⟩
  · exact hs
  · rw [hs] at h; cases h
  · rw [hs] at h; cases h

/-- An item ends the operation, or the block goes on. -/
theorem State.onItem_idle_or_goesOn (item : RxItem) (s : State) :
    (s.onItem item).phase = .idle ∨ s.goesOn (s.onItem item) := by
  cases item with
  | fail => exact .inl rfl
  | byte b =>
    simp only [State.onItem]
    split
    · refine .inr ⟨_, _, rfl, ?_⟩
      split_ifs <;> rfl
    · unfold State.onHunt
      split_ifs <;> exact .inr ⟨_, _, rfl, rfl⟩
    · unfold State.onFlen
      split_ifs
      · exact .inr ⟨_, _, rfl, rfl⟩
      · exact .inr ⟨_, _, rfl, rfl⟩
      · exact .inl rfl
    · unfold State.onPid
      split
      · split_ifs
        · exact .inr ⟨_, _, rfl, rfl⟩
        · exact .inl rfl
      · exact .inl rfl
    · unfold State.onPdata
      split_ifs <;> exact .inr ⟨_, _, rfl, rfl⟩
    · unfold State.onFchk
      split_ifs <;> exact .inl rfl
    all_goals exact .inr s.goesOn_refl

/-- After the items `xs` the block waits in the state `u`, whatever comes next. -/
structure WaitsAfter (xs : List RxItem) (s u : State) : Prop where
  waits : u.phase.waits = true
  settled : u.settle = u
  goesOn : s.goesOn u
  pump : ∀ items, State.pump (xs ++ items) s = State.pump items u

/-- The items `xs` end the operation, in a state that leaves the last of them and whatever comes next. -/
def EndsWithin (xs : List RxItem) (s : State) : Prop :=
  ∃ (u : State) (left : List RxItem), u.phase = .idle ∧ ∀ items, State.pump (xs ++ items) s = u.withRx (left ++ items)

/-- R23: a list of items leaves the block waiting, or ends the operation. -/
theorem waitsAfter_or_endsWithin (xs : List RxItem) {s : State} (h : s.atRest) :
    (∃ u, WaitsAfter xs s u) ∨ EndsWithin xs s := by
  induction xs generalizing s with
  | nil =>
    by_cases hw : s.settle.phase.waits = true
    · have hs := State.settle_eq_of_waits hw
      exact .inl ⟨s, hs ▸ hw, hs, s.goesOn_refl, fun items => rfl⟩
    · have hidle := (State.settle_atRest h).resolve_right hw
      refine .inr ⟨s.settle, [], hidle, fun items => ?_⟩
      exact (State.pump_settle items s).symm.trans (State.pump_idle items hidle)
  | cons x xs ih =>
    by_cases hw : s.settle.phase.waits = true
    · have hs := State.settle_eq_of_waits hw
      have hpump : ∀ items, State.pump (x :: xs ++ items) s = State.pump (xs ++ items) (s.onItem x) := fun items => by
        rw [List.cons_append, State.pump, if_pos hw, hs]
      rcases s.onItem_idle_or_goesOn x with hidle | hgoes
      · exact .inr ⟨s.onItem x, xs, hidle, fun items => (hpump items).trans (State.pump_idle _ hidle)⟩
      · rcases ih (State.onItem_atRest x (hs ▸ hw)) with ⟨u, hu⟩ | ⟨u, left, hidle, hu⟩
        · exact .inl ⟨u, hu.waits, hu.settled, hgoes.trans hu.goesOn, fun items => (hpump items).trans (hu.pump items)⟩
        · exact .inr ⟨u, left, hidle, fun items => (hpump items).trans (hu items)⟩
    · have hidle := (State.settle_atRest h).resolve_right hw
      refine .inr ⟨s.settle, x :: xs, hidle, fun items => ?_⟩
      exact (State.pump_settle _ s).symm.trans (State.pump_idle _ hidle)

/-- If reading ends only when all of `xs ++ ys` is consumed, and `ys` is not empty, the block waits after `xs`. -/
theorem waitsAfter_of_rx_nil {xs ys : List RxItem} {s : State} (h : s.atRest) (hne : ys ≠ [])
    (hrx : (State.pump (xs ++ ys) s).rx = []) : ∃ u, WaitsAfter xs s u := by
  rcases waitsAfter_or_endsWithin xs h with hwaits | ⟨u, left, -, hu⟩
  · exact hwaits
  · rw [hu, State.withRx_rx, List.append_eq_nil_iff] at hrx
    exact absurd hrx.2 hne

/-- R23: a block that waits after `xs` is exhausted by them. -/
theorem WaitsAfter.pump_nil {xs : List RxItem} {s u : State} (h : WaitsAfter xs s u) :
    State.pump xs s = u.rxExhausted := by
  have hpump := h.pump []
  rw [List.append_nil] at hpump
  rw [hpump, State.pump, h.settled, if_pos h.waits]

/-- R233: a failure ends the wait, and what follows it stays on RX. -/
theorem WaitsAfter.pump_fail {xs : List RxItem} {s u : State} (h : WaitsAfter xs s u) (rest : List RxItem) :
    State.pump (xs ++ .fail :: rest) s = (u.raise .transportFailure .none).withRx rest := by
  have hw : u.settle.phase.waits = true := h.settled.symm ▸ h.waits
  rw [h.pump, State.pump_fail rest hw, h.settled]

theorem State.rxExhausted_of_none {s : State} (h : s.cfg.rxTimeout = none) : s.rxExhausted = s.withRx [] := by
  rw [State.rxExhausted, h]

theorem State.rxExhausted_of_isSome {s : State} (h : s.cfg.rxTimeout.isSome = true) :
    s.rxExhausted = (s.withRx []).raise .transportFailure .none := by
  obtain ⟨bound, hbound⟩ := Option.isSome_iff_exists.1 h
  rw [State.rxExhausted, hbound]

/-- R23: without a time-out the block is left waiting. -/
theorem WaitsAfter.pump_eq_withRx {xs : List RxItem} {s u : State} (h : WaitsAfter xs s u)
    (ht : s.cfg.rxTimeout = none) : State.pump xs s = u.withRx [] := by
  rw [h.pump_nil, State.rxExhausted_of_none (h.goesOn.cfg ▸ ht)]

/-- R23, R233: with a time-out the wait ends as a failure does. -/
theorem WaitsAfter.pump_timeout {xs : List RxItem} {s u : State} (h : WaitsAfter xs s u)
    (ht : s.cfg.rxTimeout.isSome = true) : State.pump xs s = (u.raise .transportFailure .none).withRx [] := by
  rw [h.pump_nil, State.rxExhausted_of_isSome (h.goesOn.cfg ▸ ht)]
  rfl

/-- R23: conversely, a block that reading leaves waiting waits after all the items it was given. -/
theorem waitsAfter_of_pump {xs : List RxItem} {s t : State} (h : s.atRest) (ht : s.cfg.rxTimeout = none)
    (hpump : State.pump xs s = t) (hphase : t.phase ≠ .idle) : ∃ u, WaitsAfter xs s u ∧ t = u.withRx [] := by
  rcases waitsAfter_or_endsWithin xs h with ⟨u, hu⟩ | ⟨u, left, hidle, hu⟩
  · exact ⟨u, hu, hpump.symm.trans (hu.pump_eq_withRx ht)⟩
  · have hend := hu []
    rw [List.append_nil, hpump] at hend
    exact absurd (hend ▸ hidle : t.phase = .idle) hphase

/-! ### Bytes that are read -/

/-- The block reads the bytes `bs` and is then in the state `u`, whatever comes next. -/
def Reads (bs : List Byte) (s u : State) : Prop :=
  ∀ items, State.pump (rxBytes bs ++ items) s = State.pump items u

theorem reads_nil (s : State) : Reads [] s s := fun _ => rfl

theorem Reads.append {xs ys : List Byte} {s t u : State} (hxs : Reads xs s t) (hys : Reads ys t u) :
    Reads (xs ++ ys) s u := fun items => by
  rw [rxBytes, List.map_append, List.append_assoc]
  exact (hxs _).trans (hys items)

/-- One byte, for a block that is ready to read it. -/
theorem reads_byte {s : State} (hsettled : s.settle = s) (hwaits : s.phase.waits = true) (b : Byte) :
    Reads [b] s (s.onItem (.byte b)) := fun items => by
  change State.pump (.byte b :: items) s = _
  rw [State.pump, hsettled, if_pos hwaits]

/-- Bytes that end the operation leave what comes next on RX. -/
theorem Reads.pump_of_idle {bs : List Byte} {s u : State} (h : Reads bs s u) (hidle : u.settle.phase = .idle)
    (items : List RxItem) : State.pump (rxBytes bs ++ items) s = u.settle.withRx items := by
  rw [h, ← State.pump_settle, State.pump_idle _ hidle]

end Sys2Proof.Machine

/-! PROOFS. CMD records (R70, R80; layout: log entry 1): decode and encode are inverse to each other, shape by shape of
the operands; and what a step does with the record it takes. -/
namespace Sys2Proof

/-! ### Decode after encode -/

/-- The record of an operation is its selector, then its operands. -/
theorem decode_encode_append (w : Nat) (i : Instr) (tail : List Byte) :
    decode w (encode w i ++ tail) = decodeOperands w i.sel (i.operands.flatMap (encodeOperand w) ++ tail) := rfl

/-- R80: the operands of every well-formed operation read back. -/
theorem decodeOperands_encode {w : Nat} (hw : 1 ≤ w) {i : Instr} (hi : i.wf w = true) (tail : List Byte) :
    decodeOperands w i.sel (i.operands.flatMap (encodeOperand w) ++ tail) = .ok (i, tail) := by
  cases i with
  | modePassive | modeSafe | modeFull | modeOff | runScript | readScript => rfl
  | dec16 | getBit | getU8 | getS16 | getU16 | lsdFull | leds | playSong | readPacket | lsdPwm | digitalOut
  | streamPauseResume | sendIr | waitTime | waitEvent => rfl
  | setBaud code => simp [decodeOperands, Instr.sel, Instr.operands, bind, Except.bind]
  | enc16 v | waitDistance v | waitAngle v =>
    simp only [Instr.wf] at hi
    simp [decodeOperands, Instr.sel, Instr.operands, takeS16_encode hw _ hi, bind, Except.bind]
  | drive x y | driveDirect x y | drivePwm x y =>
    simp only [Instr.wf, Bool.and_eq_true] at hi
    obtain ⟨hx, hy⟩ := hi
    simp [decodeOperands, Instr.sel, Instr.operands, takeS16_encode hw _ hx, takeS16_encode hw _ hy, bind, Except.bind]
  | readFrame ids | streamStart ids | readPacketList ids | storeScript ids =>
    simp only [Instr.wf] at hi
    simp [decodeOperands, Instr.sel, Instr.operands, takeList_encode w _ hi, bind, Except.bind]
  | storeSong song notes =>
    simp only [Instr.wf] at hi
    simp [decodeOperands, Instr.sel, Instr.operands, takePairs_encode w _ hi, bind, Except.bind]

/-- Settles O1, by the shape of the operation's operands. -/
theorem decodeOfEncodeIsTheOperation : Obligations.DecodeOfEncodeIsTheOperation := fun w i tail hw hi =>
  (decode_encode_append w i tail).trans (decodeOperands_encode hw hi tail)

/-! ### Encode after decode -/

/-- R70: an operation is well formed if its operands are. -/
theorem Instr.wf_eq_all_operands (w : Nat) (i : Instr) : i.wf w = i.operands.all (Operand.wf w) := by
  cases i <;> simp [Instr.wf, Instr.operands, Operand.wf]

/-- The bytes `r` after the selector `sel` hold the operands of `i`, and `rest` after them. -/
def HoldsRecord (w : Nat) (sel : Byte) (r : List Byte) (i : Instr) (rest : List Byte) : Prop :=
  sel.toNat = i.sel.toNat ∧ i.operands.all (Operand.wf w) = true ∧ r = i.operands.flatMap (encodeOperand w) ++ rest

theorem except_bind_ok {ε α β : Type} {x : Except ε α} {f : α → Except ε β} {b : β} (h : x >>= f = .ok b) :
    ∃ a, x = .ok a ∧ f a = .ok b := by
  cases x with
  | ok a => exact ⟨a, rfl, h⟩
  | error e => cases h

section
variable {w : Nat} {sel : Byte} {r rest : List Byte} {i : Instr}

/-- An operand that is read stands at the front of the bytes, and the others behind it. -/
theorem holdsRecord_cons {op : Operand} {ops : List Operand} {r' : List Byte} (hsel : sel.toNat = i.sel.toNat)
    (hi : i.operands = op :: ops) (hop : op.wf w = true) (hr : r = encodeOperand w op ++ r')
    (hops : ops.all (Operand.wf w) = true) (hr' : r' = ops.flatMap (encodeOperand w) ++ rest) :
    HoldsRecord w sel r i rest := by
  refine ⟨hsel, by rw [hi, List.all_cons, hop, hops]; rfl, ?_⟩
  rw [hr, hr', hi, List.flatMap_cons, List.append_assoc]

theorem holdsRecord_bare (f : Instr) (hsel : sel.toNat = f.sel.toNat) (hf : f.operands = [])
    (h : Except.ok (f, r) = (.ok (i, rest) : Except DecodeError _)) : HoldsRecord w sel r i rest := by
  cases h
  exact ⟨hsel, by rw [hf]; rfl, by rw [hf]; rfl⟩

theorem holdsRecord_u8 (f : Byte → Instr) (hsel : ∀ b, sel.toNat = (f b).sel.toNat)
    (hf : ∀ b, (f b).operands = [.u8 b])
    (h : (takeU8 sel r >>= fun p => .ok (f p.1, p.2)) = .ok (i, rest)) : HoldsRecord w sel r i rest := by
  obtain ⟨⟨b, r₁⟩, hb, h⟩ := except_bind_ok h
  cases h
  exact holdsRecord_cons (hsel b) (hf b) rfl (takeU8_ok w hb) rfl rfl

theorem holdsRecord_u8_u8 (f : Byte → Byte → Instr) (hsel : ∀ a b, sel.toNat = (f a b).sel.toNat)
    (hf : ∀ a b, (f a b).operands = [.u8 a, .u8 b])
    (h : (takeU8 sel r >>= fun p => takeU8 sel p.2 >>= fun q => .ok (f p.1 q.1, q.2)) = .ok (i, rest)) :
    HoldsRecord w sel r i rest := by
  obtain ⟨⟨a, r₁⟩, ha, h⟩ := except_bind_ok h
  obtain ⟨⟨b, r₂⟩, hb, h⟩ := except_bind_ok h
  cases h
  refine holdsRecord_cons (hsel a b) (hf a b) rfl (takeU8_ok w ha) rfl ?_
  simpa using takeU8_ok w hb

theorem holdsRecord_u8_u8_u8 (f : Byte → Byte → Byte → Instr) (hsel : ∀ a b c, sel.toNat = (f a b c).sel.toNat)
    (hf : ∀ a b c, (f a b c).operands = [.u8 a, .u8 b, .u8 c])
    (h : (takeU8 sel r >>= fun p => takeU8 sel p.2 >>= fun q => takeU8 sel q.2 >>= fun o =>
      .ok (f p.1 q.1 o.1, o.2)) = .ok (i, rest)) : HoldsRecord w sel r i rest := by
  obtain ⟨⟨a, r₁⟩, ha, h⟩ := except_bind_ok h
  obtain ⟨⟨b, r₂⟩, hb, h⟩ := except_bind_ok h
  obtain ⟨⟨c, r₃⟩, hc, h⟩ := except_bind_ok h
  cases h
  refine holdsRecord_cons (hsel a b c) (hf a b c) rfl (takeU8_ok w ha) rfl ?_
  have hr₁ : r₁ = encodeOperand w (.u8 b) ++ r₂ := takeU8_ok w hb
  have hr₂ : r₂ = encodeOperand w (.u8 c) ++ r₃ := takeU8_ok w hc
  simp [hr₁, hr₂]

theorem holdsRecord_baud (f : BitVec 4 → Instr) (hsel : ∀ b, sel.toNat = (f b).sel.toNat)
    (hf : ∀ b, (f b).operands = [.baud b])
    (h : (takeBaud sel r >>= fun p => .ok (f p.1, p.2)) = .ok (i, rest)) : HoldsRecord w sel r i rest := by
  obtain ⟨⟨b, r₁⟩, hb, h⟩ := except_bind_ok h
  cases h
  exact holdsRecord_cons (hsel b) (hf b) rfl (takeBaud_ok w hb) rfl rfl

theorem holdsRecord_list (f : List Byte → Instr) (hsel : ∀ bs, sel.toNat = (f bs).sel.toNat)
    (hf : ∀ bs, (f bs).operands = [.list bs])
    (h : (takeList sel r >>= fun p => .ok (f p.1, p.2)) = .ok (i, rest)) : HoldsRecord w sel r i rest := by
  obtain ⟨⟨bs, r₁⟩, hbs, h⟩ := except_bind_ok h
  cases h
  obtain ⟨hcount, hr⟩ := takeList_ok w hbs
  exact holdsRecord_cons (hsel bs) (hf bs) hcount hr rfl rfl

theorem holdsRecord_u8_pairs (f : Byte → List (Byte × Byte) → Instr) (hsel : ∀ b ps, sel.toNat = (f b ps).sel.toNat)
    (hf : ∀ b ps, (f b ps).operands = [.u8 b, .pairs ps])
    (h : (takeU8 sel r >>= fun p => takePairs sel p.2 >>= fun q => .ok (f p.1 q.1, q.2)) = .ok (i, rest)) :
    HoldsRecord w sel r i rest := by
  obtain ⟨⟨b, r₁⟩, hb, h⟩ := except_bind_ok h
  obtain ⟨⟨ps, r₂⟩, hps, h⟩ := except_bind_ok h
  cases h
  obtain ⟨hcount, hr⟩ := takePairs_ok w hps
  refine holdsRecord_cons (hsel b ps) (hf b ps) rfl (takeU8_ok w hb) ?_ ?_
  · simpa [Operand.wf] using hcount
  · simpa using hr

theorem holdsRecord_s16 (hw : 1 ≤ w) (f : Int → Instr) (hsel : ∀ v, sel.toNat = (f v).sel.toNat)
    (hf : ∀ v, (f v).operands = [.s16 v])
    (h : (takeS16 w sel r >>= fun p => .ok (f p.1, p.2)) = .ok (i, rest)) : HoldsRecord w sel r i rest := by
  obtain ⟨⟨v, r₁⟩, hv, h⟩ := except_bind_ok h
  cases h
  obtain ⟨hfits, hr⟩ := takeS16_ok hw hv
  exact holdsRecord_cons (hsel v) (hf v) hfits hr rfl rfl

theorem holdsRecord_s16_s16 (hw : 1 ≤ w) (f : Int → Int → Instr) (hsel : ∀ u v, sel.toNat = (f u v).sel.toNat)
    (hf : ∀ u v, (f u v).operands = [.s16 u, .s16 v])
    (h : (takeS16 w sel r >>= fun p => takeS16 w sel p.2 >>= fun q => .ok (f p.1 q.1, q.2)) = .ok (i, rest)) :
    HoldsRecord w sel r i rest := by
  obtain ⟨⟨u, r₁⟩, hu, h⟩ := except_bind_ok h
  obtain ⟨⟨v, r₂⟩, hv, h⟩ := except_bind_ok h
  cases h
  obtain ⟨hu, hr₁⟩ := takeS16_ok hw hu
  obtain ⟨hv, hr₂⟩ := takeS16_ok hw hv
  refine holdsRecord_cons (hsel u v) (hf u v) hu hr₁ ?_ ?_
  · simpa [Operand.wf] using hv
  · simpa using hr₂

/-- R80: what the operands of a selector are read from is their encoding. -/
theorem decodeOperands_ok (hw : 1 ≤ w) (h : decodeOperands w sel r = .ok (i, rest)) : HoldsRecord w sel r i rest := by
  unfold decodeOperands at h
  split at h
  next hsel => exact holdsRecord_s16 hw .enc16 (fun _ => hsel) (fun _ => rfl) h
  next hsel => exact holdsRecord_u8_u8 .dec16 (fun _ _ => hsel) (fun _ _ => rfl) h
  next hsel => exact holdsRecord_list .readFrame (fun _ => hsel) (fun _ => rfl) h
  next hsel => exact holdsRecord_u8_u8 .getBit (fun _ _ => hsel) (fun _ _ => rfl) h
  next hsel => exact holdsRecord_u8 .getU8 (fun _ => hsel) (fun _ => rfl) h
  next hsel => exact holdsRecord_u8 .getS16 (fun _ => hsel) (fun _ => rfl) h
  next hsel => exact holdsRecord_u8 .getU16 (fun _ => hsel) (fun _ => rfl) h
  next hsel => exact holdsRecord_bare .modePassive hsel rfl h
  next hsel => exact holdsRecord_baud .setBaud (fun _ => hsel) (fun _ => rfl) h
  next hsel => exact holdsRecord_bare .modeSafe hsel rfl h
  next hsel => exact holdsRecord_bare .modeFull hsel rfl h
  next hsel => exact holdsRecord_s16_s16 hw .drive (fun _ _ => hsel) (fun _ _ => rfl) h
  next hsel => exact holdsRecord_u8 .lsdFull (fun _ => hsel) (fun _ => rfl) h
  next hsel => exact holdsRecord_u8_u8_u8 .leds (fun _ _ _ => hsel) (fun _ _ _ => rfl) h
  next hsel => exact holdsRecord_u8_pairs .storeSong (fun _ _ => hsel) (fun _ _ => rfl) h
  next hsel => exact holdsRecord_u8 .playSong (fun _ => hsel) (fun _ => rfl) h
  next hsel => exact holdsRecord_u8 .readPacket (fun _ => hsel) (fun _ => rfl) h
  next hsel => exact holdsRecord_u8_u8_u8 .lsdPwm (fun _ _ _ => hsel) (fun _ _ _ => rfl) h
  next hsel => exact holdsRecord_s16_s16 hw .driveDirect (fun _ _ => hsel) (fun _ _ => rfl) h
  next hsel => exact holdsRecord_s16_s16 hw .drivePwm (fun _ _ => hsel) (fun _ _ => rfl) h
  next hsel => exact holdsRecord_u8 .digitalOut (fun _ => hsel) (fun _ => rfl) h
  next hsel => exact holdsRecord_list .streamStart (fun _ => hsel) (fun _ => rfl) h
  next hsel => exact holdsRecord_list .readPacketList (fun _ => hsel) (fun _ => rfl) h
  next hsel => exact holdsRecord_u8 .streamPauseResume (fun _ => hsel) (fun _ => rfl) h
  next hsel => exact holdsRecord_u8 .sendIr (fun _ => hsel) (fun _ => rfl) h
  next hsel => exact holdsRecord_list .storeScript (fun _ => hsel) (fun _ => rfl) h
  next hsel => exact holdsRecord_bare .runScript hsel rfl h
  next hsel => exact holdsRecord_bare .readScript hsel rfl h
  next hsel => exact holdsRecord_u8 .waitTime (fun _ => hsel) (fun _ => rfl) h
  next hsel => exact holdsRecord_s16 hw .waitDistance (fun _ => hsel) (fun _ => rfl) h
  next hsel => exact holdsRecord_s16 hw .waitAngle (fun _ => hsel) (fun _ => rfl) h
  next hsel => exact holdsRecord_u8 .waitEvent (fun _ => hsel) (fun _ => rfl) h
  next hsel => exact holdsRecord_bare .modeOff hsel rfl h
  next => cases h

end

/-- R70: bytes that decode are the record of a well-formed operation. -/
theorem decode_ok {w : Nat} (hw : 1 ≤ w) {bytes rest : List Byte} {i : Instr} (h : decode w bytes = .ok (i, rest)) :
    i.wf w = true ∧ bytes = encode w i ++ rest := by
  cases bytes with
  | nil => cases h
  | cons sel r =>
    obtain ⟨hsel, hwf, hr⟩ := decodeOperands_ok hw h
    refine ⟨(Instr.wf_eq_all_operands w i).trans hwf, ?_⟩
    rw [hr, BitVec.eq_of_toNat_eq hsel, encode, List.cons_append]

/-- Settles O2: the operands are read shape by shape, each from its encoding. -/
theorem decodedBytesAreTheEncoding : Obligations.DecodedBytesAreTheEncoding := fun _ _ _ _ hw h => decode_ok hw h

/-- Settles O3: the six records evaluate to their operations. -/
theorem recordsWrittenOutDecode : Obligations.RecordsWrittenOutDecode := by
  unfold Obligations.RecordsWrittenOutDecode
  decide

/-! ### Selectors of no operation -/

/-- R85: a selector in no row of the map is reported as such, whatever follows it. -/
theorem decode_unknownSelector {sel : Byte}
    (h : sel.toNat ∉ [1, 2, 16, 32, 33, 34, 35, 128, 129, 131, 132, 137, 138, 139, 140, 141, 142, 144, 145, 146, 147,
      148, 149, 150, 151, 152, 153, 154, 155, 156, 157, 158, 173]) (w : Nat) (r : List Byte) :
    decode w (sel :: r) = .error (.unknownSelector sel) := by
  rw [decode]
  unfold decodeOperands
  split
  case h_34 => rfl
  all_goals
    next hsel =>
      rw [hsel] at h
      exact absurd (by decide) h

end Sys2Proof

namespace Sys2Proof.Machine

/-! ### What a step does with a record -/

section
variable {s : State} {record left : List Byte} {rest : List (List Byte)}

/-- R8: an idle block runs the operation its first record decodes to. -/
theorem step_of_decode_ok {i : Instr} (hwf : s.cfg.wf = true) (hidle : s.phase = .idle)
    (hhost : s.host = record :: rest) (hdecode : decode s.cfg.valueW record = .ok (i, left)) : step s = exec i { s with host := rest } := by
  simp only [step, hwf, if_true, hidle, State.takeRecord, hhost, hdecode]

/-- R85: an idle block answers an unknown selector at once. -/
theorem step_of_unknownSelector {sel : Byte} (hwf : s.cfg.wf = true) (hidle : s.phase = .idle)
    (hhost : s.host = record :: rest) (hdecode : decode s.cfg.valueW record = .error (.unknownSelector sel)) :
    step s = .next (unknownSelector sel { s with host := rest }) := by
  simp only [step, hwf, if_true, hidle, State.takeRecord, hhost, hdecode]

/-- R263: an idle block with no record stays as it is. -/
theorem step_of_no_record (hwf : s.cfg.wf = true) (hidle : s.phase = .idle) (hhost : s.host = []) :
    step s = .next s := by
  simp only [step, hwf, if_true, hidle, State.takeRecord, hhost]

/-- R23: a waiting block goes on reading. -/
theorem step_of_waits (hwf : s.cfg.wf = true) (hwaits : s.phase.waits = true) : step s = .next s.runRx := by
  have hbusy : s.phase ≠ .idle := fun hidle => by rw [hidle] at hwaits; cases hwaits
  simp only [step, hwf, if_true, hbusy, if_false, resume, hwaits]

end

/-- Settles O4: with a first record that decodes, `step` is `exec`. -/
theorem stepRunsTheDecodedOperation : Obligations.StepRunsTheDecodedOperation :=
  fun _ _ _ _ _ hwf hidle hhost hdecode => step_of_decode_ok hwf hidle hhost hdecode

/-- Settles O5: the decoder names the selector, and `step` answers it; MODE_OFF under V1 is O14's last clause. -/
theorem unknownSelectorIsInvalidArgument : Obligations.UnknownSelectorIsInvalidArgument := by
  obtain ⟨-, -, -, hmodeOff⟩ := modeOffDependsOnTheVersion
  refine ⟨fun s sel r rest hwf hidle hhost hsel => ⟨[], Work.cleared, ?_⟩, hmodeOff⟩
  rw [step_of_unknownSelector hwf hidle hhost (decode_unknownSelector hsel _ r)]
  simp only [unknownSelector, State.raise, hidle]

/-- Settles O6: with no record placed, `takeRecord` waits. -/
theorem idleBlockWaitsForARecord : Obligations.IdleBlockWaitsForARecord :=
  fun _ hwf hidle hhost => step_of_no_record hwf hidle hhost

/-- Settles O7: a busy block only reads on, and reading leaves the records and CMD alone. -/
theorem busyBlockAcceptsNothing : Obligations.BusyBlockAcceptsNothing := by
  intro s t hbusy h
  rcases step_next h with ⟨hidle, -⟩ | ⟨hidle, -⟩ | ⟨-, rfl⟩
  · exact absurd hidle hbusy
  · exact absurd hidle hbusy
  · obtain ⟨-, -, -, hcmd, hhost, -⟩ := State.pump_frame s.rx s
    exact ⟨hhost, hcmd⟩

/-- Settles O8: the step tests the configuration first. -/
theorem illFormedInstanceDoesNotRun : Obligations.IllFormedInstanceDoesNotRun := by
  intro s hcat
  have hcfg : ¬ s.cfg.wf = true := by simp [Config.wf, hcat]
  rw [step, if_neg hcfg]

end Sys2Proof.Machine

/-! PROOFS. Lengths of lists of packets under a well-formed catalogue (R126, R130), and the cache that a commit of
atomic packets leaves (R41, R42). -/
namespace Sys2Proof.Machine

/-! ### Lists of packets -/

theorem totalLen_append (c : Catalogue) (xs ys : List Byte) :
    totalLen c (xs ++ ys) = totalLen c xs + totalLen c ys := by
  rw [totalLen, expandList_append, sumLen_append]
  rfl

theorem totalLen_cons (c : Catalogue) (id : Byte) (ids : List Byte) :
    totalLen c (id :: ids) = totalLen c [id] + totalLen c ids :=
  totalLen_append c [id] ids

/-- The first `k + 1` packets are as long as the first `k` and the next one. -/
theorem totalLen_take_succ (c : Catalogue) {ids : List Byte} {k : Nat} {id : Byte} (h : ids[k]? = some id) :
    totalLen c (ids.take (k + 1)) = totalLen c (ids.take k) + totalLen c [id] := by
  rw [List.take_add_one, h, totalLen_append]
  rfl

theorem sumLen_take_succ (c : Catalogue) {atoms : List Byte} {k : Nat} (h : k < atoms.length) :
    sumLen c (atoms.take (k + 1)) = sumLen c (atoms.take k) + lenAt c atoms k := by
  rw [List.take_add_one, lenAt, List.getElem?_eq_getElem h, sumLen_append]
  simp

theorem sumLen_take_le (c : Catalogue) (atoms : List Byte) (k : Nat) : sumLen c (atoms.take k) ≤ sumLen c atoms := by
  have hsplit := sumLen_append c (atoms.take k) (atoms.drop k)
  rw [List.take_append_drop] at hsplit
  omega

section
variable {c : Catalogue} (hc : catalogueWf c = true)
include hc

/-- R130: a packet of the catalogue, alone in a list. -/
theorem totalLen_singleton_eq {id : Byte} (hid : inCatalogue c id = true) : totalLen c [id] = byteLength c id :=
  (totalLen_singleton c id).trans (packetLengthIsTheSumOfItsAtoms c id hc hid)

/-- R128 (b): a packet of the catalogue has a byte at least. -/
theorem totalLen_singleton_pos {id : Byte} (hid : inCatalogue c id = true) : 1 ≤ totalLen c [id] := by
  obtain ⟨-, hlengths, -⟩ := catalogueWf_parts hc
  rw [totalLen_singleton_eq hc hid]
  exact byteLength_pos hlengths hid

/-- R124, R125: an expansion holds atomic packets only. -/
theorem expandList_isAtom (ids : List Byte) : ∀ a ∈ expandList c ids, isAtom c a := by
  intro a ha
  obtain ⟨hids, -⟩ := catalogueWf_parts hc
  obtain ⟨id, -, hmem⟩ := List.mem_flatMap.1 ha
  exact expandWithin_atoms hids c.length id.toNat a hmem

/-- R125: expanding twice is expanding once. -/
theorem expandList_expandList (ids : List Byte) : expandList c (expandList c ids) = expandList c ids :=
  expandList_atoms (expandList_isAtom hc ids)

theorem totalLen_expandList (ids : List Byte) : totalLen c (expandList c ids) = totalLen c ids := by
  rw [totalLen, expandList_expandList hc, totalLen]

/-- An atomic packet of a list has a byte at least. -/
theorem lenAt_pos {atoms : List Byte} (hatoms : ∀ a ∈ atoms, isAtom c a) {k : Nat} (hk : k < atoms.length) :
    1 ≤ lenAt c atoms k := by
  obtain ⟨-, hlengths, -⟩ := catalogueWf_parts hc
  rw [lenAt, List.getElem?_eq_getElem hk]
  exact byteLength_pos hlengths (hatoms _ (List.getElem_mem hk)).1

end

/-! ### The cache -/

/-- R41, R42, R46: a commit of atomic packets with all their bytes keeps the cache fitting. -/
theorem CacheFits.commit {c : Catalogue} {m : Memory} (hm : CacheFits c m) {atoms stage : List Byte}
    (hatoms : ∀ a ∈ atoms, isAtom c a) (hlen : sumLen c atoms ≤ stage.length) :
    CacheFits c (Memory.commit c atoms stage m) := by
  obtain ⟨hwf, hentries⟩ := hm
  refine ⟨Memory.wf_commit c atoms stage hwf, fun e he => ?_⟩
  rcases Memory.mem_commit hlen he with hold | ⟨a, ha, hid, hbytes⟩
  · exact hentries e hold
  · rw [hid, BitVec.ofNat_toNat, BitVec.setWidth_eq]
    exact ⟨hatoms a ha, hbytes⟩

/-- R43: what an entry reads as stands in the cache. -/
theorem Memory.mem_of_read {m : Memory} {id : Nat} {d : List Byte} (h : m.read id = some d) : (id, d) ∈ m := by
  induction m with
  | nil => cases h
  | cons e r ih =>
    obtain ⟨k, v⟩ := e
    rw [Memory.read] at h
    split at h
    · next hk =>
      cases h
      rw [hk]
      exact List.mem_cons_self
    · exact List.mem_cons_of_mem _ (ih h)

/-- R42, R43: an entry of a fitting cache has the length the catalogue gives. -/
theorem CacheFits.length_of_read {c : Catalogue} {m : Memory} (hm : CacheFits c m) {id : Byte} {d : List Byte}
    (h : m.read id.toNat = some d) : d.length = byteLength c id := by
  obtain ⟨-, hlen⟩ := hm.2 _ (Memory.mem_of_read h)
  rwa [BitVec.ofNat_toNat, BitVec.setWidth_eq] at hlen

end Sys2Proof.Machine

/-! PROOFS. The invariant of the block (R18, R19, R41, R42): every step keeps it. -/
namespace Sys2Proof.Machine

/-! ### The invariant before the block settles -/

/-- R138: what the working registers hold in RESP before the block has settled: it is inside a packet, or the response
is complete. -/
def State.respFits (s : State) : Prop :=
  (∀ a ∈ s.work.alist, isAtom s.cfg.catalogue a) ∧
  ((s.work.idx < s.work.alist.length ∧ 1 ≤ s.work.cnt ∧
      s.work.cnt ≤ lenAt s.cfg.catalogue s.work.alist s.work.idx ∧
      s.work.stage.length + s.work.cnt = sumLen s.cfg.catalogue (s.work.alist.take (s.work.idx + 1))) ∨
   (s.work.alist.length ≤ s.work.idx ∧ s.work.stage.length = sumLen s.cfg.catalogue s.work.alist))

/-- What the working registers hold before the block has settled: a response may be complete, and a hunt's budget
exhausted. -/
def State.fitsBefore (s : State) : Prop :=
  match s.phase with
  | .resp => s.respFits
  | .hunt => s.frameSetUp ∧ s.work.disc ≤ s.work.total
  | .idle | .check | .emit | .flen | .pid | .pdata | .fchk | .commit => s.workFits

/-- The invariant as it holds before the block has settled. -/
def State.InvBefore (s : State) : Prop :=
  s.cfg.wf = true ∧ s.atRest ∧ CacheFits s.cfg.catalogue s.cache ∧ SreqFits s.cfg.catalogue s.sreq ∧ s.fitsBefore

theorem Config.wf_parts {c : Config} (h : c.wf = true) :
    catalogueWf c.catalogue = true ∧ cmdTabWf c.cmdtab = true ∧ 17 ≤ c.valueW := by
  simp only [Config.wf, Bool.and_eq_true, decide_eq_true_eq] at h
  obtain ⟨⟨hcat, htab⟩, hw⟩ := h
  exact ⟨hcat, htab, hw⟩

/-- R19: nothing is asked of the working registers of an idle block. -/
theorem State.inv_of_idle {s : State} (hwf : s.cfg.wf = true) (hcache : CacheFits s.cfg.catalogue s.cache)
    (hsreq : SreqFits s.cfg.catalogue s.sreq) (hidle : s.phase = .idle) : s.Inv := by
  refine ⟨hwf, .inl hidle, hcache, hsreq, ?_⟩
  rw [State.workFits, hidle]
  trivial

theorem State.Inv.raise {s : State} (h : s.Inv) (status : Status) (sub : SubCause) : (s.raise status sub).Inv := by
  obtain ⟨hwf, -, hcache, hsreq, -⟩ := h
  exact State.inv_of_idle hwf hcache hsreq rfl

/-- An idle block has nothing to settle. -/
theorem State.Inv.before_of_idle {s : State} (h : s.Inv) (hidle : s.phase = .idle) : s.InvBefore := by
  obtain ⟨hwf, hrest, hcache, hsreq, -⟩ := h
  refine ⟨hwf, hrest, hcache, hsreq, ?_⟩
  rw [State.fitsBefore, hidle]
  simp only [State.workFits, hidle]

/-- R46: a commit of the expected atomic packets, all staged, keeps the invariant. -/
theorem State.commitStage_inv {s : State} (hwf : s.cfg.wf = true) (hcache : CacheFits s.cfg.catalogue s.cache)
    (hsreq : SreqFits s.cfg.catalogue s.sreq) (hatoms : ∀ a ∈ s.work.alist, isAtom s.cfg.catalogue a)
    (hstage : s.work.stage.length = sumLen s.cfg.catalogue s.work.alist) : s.commitStage.Inv :=
  State.inv_of_idle hwf (hcache.commit hatoms hstage.ge) hsreq rfl

/-- R136, R155: settling turns the invariant before it into the invariant. -/
theorem State.settle_inv {s : State} (h : s.InvBefore) : s.settle.Inv := by
  obtain ⟨hwf, hrest, hcache, hsreq, hfits⟩ := h
  have hunsettled : s.workFits → s.Inv := fun hwork => ⟨hwf, hrest, hcache, hsreq, hwork⟩
  rw [State.fitsBefore] at hfits
  cases hphase : s.phase with
  | hunt =>
    simp only [hphase] at hfits
    obtain ⟨hsetUp, hdisc⟩ := hfits
    rw [State.settle_hunt hphase]
    split
    · exact State.inv_of_idle hwf hcache hsreq rfl
    · next hne =>
      refine hunsettled ?_
      rw [State.workFits, hphase]
      exact ⟨hsetUp, by omega⟩
  | resp =>
    simp only [hphase] at hfits
    rw [State.settle_resp hphase]
    obtain ⟨hatoms, ⟨hidx, hinside⟩ | ⟨hdone, hstage⟩⟩ := hfits
    · rw [if_neg (Nat.not_le.2 hidx)]
      refine hunsettled ?_
      rw [State.workFits, hphase]
      exact ⟨hatoms, hidx, hinside⟩
    · rw [if_pos hdone]
      exact State.commitStage_inv hwf hcache hsreq hatoms hstage
  | _ =>
    rw [State.settle_eq_self (by simp [hphase]) (by simp [hphase])]
    simp only [hphase] at hfits
    exact hunsettled hfits

/-! ### A frame's ids -/

section
variable {s : State} (hc : catalogueWf s.cfg.catalogue = true) (h : s.frameSetUp)
include h

theorem State.frameSetUp.total : s.work.total = sumLen s.cfg.catalogue s.work.alist := by
  obtain ⟨-, halist, htotal⟩ := h
  rw [htotal, halist, totalLen]

include hc

theorem State.frameSetUp.atoms : ∀ a ∈ s.work.alist, isAtom s.cfg.catalogue a := by
  obtain ⟨-, halist, -⟩ := h
  rw [halist]
  exact expandList_isAtom hc _

/-- R157, R158: in both id modes the ids of a frame are known. -/
theorem State.frameSetUp.frameIds_known : ∀ id ∈ s.frameIds, inCatalogue s.cfg.catalogue id = true := by
  obtain ⟨hknown, -⟩ := id h
  intro a ha
  unfold State.frameIds at ha
  split at ha
  · exact (h.atoms hc a ha).1
  · exact List.all_eq_true.1 hknown a ha

/-- R157, R158: in both id modes the units of a frame have the expected number of bytes together. -/
theorem State.frameSetUp.totalLen_frameIds : totalLen s.cfg.catalogue s.frameIds = s.work.total := by
  obtain ⟨-, halist, htotal⟩ := id h
  unfold State.frameIds
  split
  · rw [halist, totalLen_expandList hc, htotal]
  · exact htotal.symm

end

/-! ### Items -/

/-- Only the checksum byte of a frame can make an item change the cache (R160). -/
theorem State.onItem_cache {s : State} (hphase : s.phase ≠ .fchk) (item : RxItem) :
    (s.onItem item).cache = s.cache := by
  cases item with
  | fail => rfl
  | byte b =>
    simp only [State.onItem]
    split
    · rfl
    · unfold State.onHunt; split_ifs <;> rfl
    · unfold State.onFlen; split_ifs <;> rfl
    · unfold State.onPid; split
      · split_ifs <;> rfl
      · rfl
    · unfold State.onPdata; split_ifs <;> rfl
    · next hfchk => exact absurd hfchk hphase
    all_goals rfl

/-- An item that leaves the cache alone and registers that fit keeps the invariant, up to settling. -/
theorem State.Inv.onItem {s : State} {item : RxItem} (h : s.Inv) (hwaits : s.phase.waits = true)
    (hphase : s.phase ≠ .fchk) (hfits : (s.onItem item).fitsBefore) : (s.onItem item).InvBefore := by
  obtain ⟨hwf, -, hcache, hsreq, -⟩ := h
  obtain ⟨⟨hcfg, -, hsame, -⟩, -⟩ := State.onItem_frame item s
  refine ⟨hcfg ▸ hwf, State.onItem_atRest item hwaits, ?_, ?_, hfits⟩
  · rw [hcfg, State.onItem_cache hphase]
    exact hcache
  · rw [hcfg, hsame]
    exact hsreq

section
variable {s : State}

/-- R138: a response byte leaves the block inside the packet, at the next packet, or with a complete response. -/
theorem State.onResp_fits (hc : catalogueWf s.cfg.catalogue = true) (hphase : s.phase = .resp) (hfits : s.workFits)
    (b : Byte) : (s.onResp b).respFits := by
  rw [State.workFits, hphase] at hfits
  obtain ⟨hatoms, hidx, hpos, hcnt, hstage⟩ := hfits
  unfold State.onResp
  refine ⟨by split_ifs <;> exact hatoms, ?_⟩
  by_cases hlast : s.work.cnt ≤ 1
  · simp only [hlast, if_true]
    by_cases hnext : s.work.idx + 1 < s.work.alist.length
    · refine .inl ⟨hnext, lenAt_pos hc hatoms hnext, le_rfl, ?_⟩
      rw [sumLen_take_succ _ hnext, ← hstage, List.length_append, List.length_singleton]
      omega
    · have hall : s.work.alist.take (s.work.idx + 1) = s.work.alist := List.take_of_length_le (by omega)
      refine .inr ⟨Nat.le_of_not_lt hnext, ?_⟩
      rw [List.length_append, List.length_singleton]
      rw [hall] at hstage
      omega
  · simp only [hlast, if_false]
    refine .inl ⟨hidx, by omega, le_trans (Nat.sub_le _ _) hcnt, ?_⟩
    rw [List.length_append, List.length_singleton]
    omega

/-- R155: the hunt goes on, within its budget, or the frame length comes next. -/
theorem State.onHunt_fits (hphase : s.phase = .hunt) (hfits : s.workFits) (b : Byte) : (s.onHunt b).fitsBefore := by
  rw [State.workFits, hphase] at hfits
  obtain ⟨hsetUp, hdisc⟩ := hfits
  unfold State.onHunt
  split_ifs
  · exact hsetUp
  · simp only [State.fitsBefore, hphase]
    exact ⟨hsetUp, hdisc⟩

/-- R156, R162: after the length comes the first id byte, or the checksum of an empty frame. -/
theorem State.onFlen_fits (hc : catalogueWf s.cfg.catalogue = true) (hphase : s.phase = .flen) (hfits : s.workFits)
    (b : Byte) : (s.onFlen b).fitsBefore := by
  rw [State.workFits, hphase] at hfits
  have htotal := hfits.totalLen_frameIds hc
  unfold State.onFlen
  split_ifs with hlen hnone
  · refine ⟨hfits, ?_⟩
    rw [← htotal, List.length_eq_zero_iff.1 hnone]
    rfl
  · exact ⟨hfits, Nat.pos_of_ne_zero hnone, rfl⟩
  · trivial

/-- R157, R158: after an id byte come the bytes of its unit, one at least. -/
theorem State.onPid_fits (hc : catalogueWf s.cfg.catalogue = true) (hphase : s.phase = .pid) (hfits : s.workFits)
    (b : Byte) : (s.onPid b).fitsBefore := by
  rw [State.workFits, hphase] at hfits
  obtain ⟨hsetUp, hidx, hstage⟩ := hfits
  unfold State.onPid
  split
  · next want hwant =>
    have hknown := hsetUp.frameIds_known hc want (List.mem_of_getElem? hwant)
    have hunit : s.frameIds.getD s.work.idx 0#8 = want := by rw [List.getD_eq_getElem?_getD, hwant]; rfl
    split_ifs
    · refine ⟨hsetUp, hidx, totalLen_singleton_pos hc hknown, ?_, ?_⟩
      · exact (congrArg (fun id => totalLen s.cfg.catalogue [id]) hunit).ge
      · exact (congrArg (· + _) hstage).trans (totalLen_take_succ _ hwant).symm
    · trivial
  · trivial

/-- R153, R162: after a data byte comes the next one, the next id byte, or the checksum. -/
theorem State.onPdata_fits (hc : catalogueWf s.cfg.catalogue = true) (hphase : s.phase = .pdata) (hfits : s.workFits)
    (b : Byte) : (s.onPdata b).fitsBefore := by
  rw [State.workFits, hphase] at hfits
  obtain ⟨hsetUp, hidx, hpos, hcnt, hstage⟩ := hfits
  have hlength : (s.work.stage ++ [b]).length = s.work.stage.length + 1 := by
    rw [List.length_append, List.length_singleton]
  unfold State.onPdata
  split_ifs with hlast hnext
  · refine ⟨hsetUp, hnext, ?_⟩
    exact (hlength.trans (by omega)).trans hstage
  · refine ⟨hsetUp, ?_⟩
    have hall : s.frameIds.take (s.work.idx + 1) = s.frameIds := List.take_of_length_le (by omega)
    rw [hall, hsetUp.totalLen_frameIds hc] at hstage
    simp only
    omega
  · simp only [State.fitsBefore, State.workFits, hphase]
    refine ⟨hsetUp, hidx, by omega, ?_, ?_⟩
    · exact le_trans (Nat.sub_le _ _) hcnt
    · refine Eq.trans ?_ hstage
      omega

/-- R159, R160: after the checksum byte the frame is committed, or refused. -/
theorem State.onFchk_inv (h : s.Inv) (hphase : s.phase = .fchk) (b : Byte) : (s.onFchk b).Inv := by
  obtain ⟨hwf, -, hcache, hsreq, hfits⟩ := id h
  obtain ⟨hc, -⟩ := Config.wf_parts hwf
  rw [State.workFits, hphase] at hfits
  obtain ⟨hsetUp, hstage⟩ := hfits
  unfold State.onFchk
  split_ifs
  · exact State.commitStage_inv hwf hcache hsreq (hsetUp.atoms hc) (hstage.trans hsetUp.total)
  · exact h.raise _ _

/-- R162, R138: an item that arrives keeps the invariant, up to settling. -/
theorem State.onItem_inv (item : RxItem) (h : s.Inv) (hwaits : s.phase.waits = true) : (s.onItem item).InvBefore := by
  obtain ⟨hwf, -, -, -, hfits⟩ := id h
  obtain ⟨hc, -⟩ := Config.wf_parts hwf
  cases item with
  | fail => exact (h.raise _ _).before_of_idle rfl
  | byte b =>
    cases hphase : s.phase with
    | resp =>
      refine h.onItem hwaits (by simp [hphase]) ?_
      have hresp : (s.onResp b).phase = .resp := hphase
      rw [State.onItem_resp hphase, State.fitsBefore, hresp]
      exact State.onResp_fits hc hphase hfits b
    | hunt =>
      refine h.onItem hwaits (by simp [hphase]) ?_
      rw [State.onItem_hunt hphase]
      exact State.onHunt_fits hphase hfits b
    | flen =>
      refine h.onItem hwaits (by simp [hphase]) ?_
      rw [State.onItem_flen hphase]
      exact State.onFlen_fits hc hphase hfits b
    | pid =>
      refine h.onItem hwaits (by simp [hphase]) ?_
      rw [State.onItem_pid hphase]
      exact State.onPid_fits hc hphase hfits b
    | pdata =>
      refine h.onItem hwaits (by simp [hphase]) ?_
      rw [State.onItem_pdata hphase]
      exact State.onPdata_fits hc hphase hfits b
    | fchk =>
      have hidle : (s.onFchk b).phase = .idle := by unfold State.onFchk; split_ifs <;> rfl
      rw [State.onItem_fchk hphase]
      exact (State.onFchk_inv h hphase b).before_of_idle hidle
    | idle | check | emit | commit =>
      rw [hphase] at hwaits
      cases hwaits

end

/-- R23: reading keeps the invariant. -/
theorem State.pump_inv (items : List RxItem) {s : State} (h : s.InvBefore) : (State.pump items s).Inv :=
  pump_induction (P := State.InvBefore) (Q := State.Inv) (fun _ => State.settle_inv)
    (fun item _ => State.onItem_inv item) (fun _ _ hs => hs) (fun _ hs => hs.raise _ _) items h

/-- A waiting block that meets the invariant meets it before settling, too. -/
theorem State.Inv.before {s : State} (h : s.Inv) : s.InvBefore := by
  obtain ⟨hwf, hrest, hcache, hsreq, hfits⟩ := h
  refine ⟨hwf, hrest, hcache, hsreq, ?_⟩
  cases hphase : s.phase with
  | resp =>
    rw [State.workFits, hphase] at hfits
    obtain ⟨hatoms, hinside⟩ := hfits
    simp only [State.fitsBefore, hphase]
    exact ⟨hatoms, .inl hinside⟩
  | hunt =>
    rw [State.workFits, hphase] at hfits
    obtain ⟨hsetUp, hdisc⟩ := hfits
    simp only [State.fitsBefore, hphase]
    exact ⟨hsetUp, hdisc.le⟩
  | _ =>
    simp only [State.fitsBefore, hphase]
    exact hfits

/-! ### Operations -/

/-- R138: the response to a request for known ids begins with registers that fit. -/
theorem State.startResp_fits {s : State} (hc : catalogueWf s.cfg.catalogue = true) (ids : List Byte) :
    (s.startResp (expandList s.cfg.catalogue ids)).respFits := by
  have hatoms := expandList_isAtom hc ids
  refine ⟨hatoms, ?_⟩
  cases hlist : expandList s.cfg.catalogue ids with
  | nil => exact .inr ⟨le_rfl, rfl⟩
  | cons a as =>
    have hpos := lenAt_pos (k := 0) hc hatoms (by simp [hlist])
    rw [hlist] at hpos
    refine .inl ⟨Nat.succ_pos _, hpos, le_rfl, ?_⟩
    simp [lenAt]

/-- R153: a frame read begins with its registers set up. -/
theorem State.hunting_frameSetUp {s : State} {ids : List Byte}
    (hknown : ids.all (inCatalogue s.cfg.catalogue) = true) : (s.hunting ids).frameSetUp :=
  ⟨hknown, rfl, rfl⟩

/-- R12, R151: what STREAM_START remembers fits; every other operation keeps SREQ. -/
theorem sreqAfter_fits {i : Instr} {s : State} {w : Nat} (hi : i.wf w = true) (hacc : s.accepts i = true)
    (hsreq : SreqFits s.cfg.catalogue s.sreq) : SreqFits s.cfg.catalogue (sreqAfter i s.sreq) := by
  cases i with
  | streamStart ids => exact ⟨of_decide_eq_true hi, hacc⟩
  | _ => exact hsreq

/-- Every well-formed operation keeps the invariant, whatever the phase it is accepted in. -/
theorem exec_inv {i : Instr} {s t : State} {w : Nat} (hi : i.wf w = true) (hs : s.Inv) (h : exec i s = .next t) :
    t.Inv := by
  obtain ⟨hwf, -, hcache, hsreq, -⟩ := hs
  obtain ⟨hc, -⟩ := Config.wf_parts hwf
  cases execCase i s with
  | invalid _ hexec | notPopulated _ _ hexec | answered _ _ _ hexec | writeFailed _ _ _ _ _ _ hexec =>
    cases (hexec s s.looksLike_refl).symm.trans h
    exact State.inv_of_idle hwf hcache hsreq rfl
  | outOfRange _ hexec | noCommand _ _ _ _ hexec | wrongLength _ _ _ _ _ hexec =>
    cases (hexec s s.looksLike_refl).symm.trans h
  | sent hacc bs gone fates _ hexec =>
    cases (hexec s s.looksLike_refl).symm.trans h
    exact State.inv_of_idle hwf hcache (sreqAfter_fits hi hacc hsreq) rfl
  | requested _ _ _ bs gone fates _ hexec =>
    cases (hexec s s.looksLike_refl).symm.trans h
    exact State.pump_inv _ ⟨hwf, .inr rfl, hcache, hsreq, State.startResp_fits hc _⟩
  | hunts hacc ids hids hexec =>
    cases (hexec s s.looksLike_refl).symm.trans h
    rw [hids] at hacc
    exact State.pump_inv _ ⟨hwf, .inr rfl, hcache, hsreq, State.hunting_frameSetUp hacc, Nat.zero_le _⟩

/-! ### The statements -/

/-- The invariant does not speak of the records the host has placed. -/
theorem State.Inv.withHost {s : State} (h : s.Inv) (host : List (List Byte)) : { s with host := host }.Inv := h

/-- Settles O48: an operation that is accepted keeps the invariant up to its end or its wait, and so does reading on. -/
theorem stepKeepsTheInvariant : Obligations.StepKeepsTheInvariant := by
  intro s t hs h
  rcases step_next h with ⟨-, -, rfl⟩ | ⟨-, record, rest, -, ⟨i, left, hdecode, hexec⟩ | ⟨sel, -, rfl⟩⟩ | ⟨-, rfl⟩
  · exact hs
  · obtain ⟨hwf, -⟩ := id hs
    obtain ⟨-, -, hw⟩ := Config.wf_parts hwf
    obtain ⟨hi, -⟩ := decode_ok (by omega) hdecode
    exact exec_inv hi (hs.withHost rest) hexec
  · obtain ⟨hwf, -, hcache, hsreq, -⟩ := hs
    exact State.inv_of_idle hwf hcache hsreq rfl
  · exact State.pump_inv s.rx hs.before

/-- Settles O47: the block after reset is idle, with an empty cache and no remembered id. -/
theorem resetMeetsTheInvariant : Obligations.ResetMeetsTheInvariant := by
  have hreset : ∀ c : Config, c.wf = true → (State.resetWith c).Inv := fun c hwf =>
    State.inv_of_idle hwf ⟨⟨List.Pairwise.nil, by simp [State.resetWith]⟩, by simp [State.resetWith]⟩
      ⟨Nat.zero_le _, rfl⟩ rfl
  exact ⟨hreset _ (by decide +kernel), hreset⟩

end Sys2Proof.Machine

/-! PROOFS. The command table (R74 to R79, R199): a table that fits has every command, and the default table's commands
have the length of their format. -/
namespace Sys2Proof

/-! ### A table that fits -/

/-- R71, R80: the operands of a wire operation have the types its selector has in the map. -/
theorem mem_wireOperands {i : Instr} (h : i.isWire = true) : (i.sel, i.operands.map Operand.kind) ∈ wireOperands := by
  rw [Machine.isWire_eq_not_isLocal] at h
  cases i with
  | enc16 | dec16 | readFrame | getBit | getU8 | getS16 | getU16 => cases h
  | _ =>
    simp only [Instr.sel, Instr.operands, List.map, Operand.kind]
    decide

/-- R199: a table that fits has a row for every wire operation, whose fields fit its operands. -/
theorem cmdRow_of_cmdTabWf {tab : CmdTab} {i : Instr} (htab : cmdTabWf tab = true) (hi : i.isWire = true) :
    ∃ r, cmdRow tab i.sel = some r ∧ r.layout.all (Field.fits (i.operands.map Operand.kind)) = true := by
  have hrow := List.all_eq_true.1 htab _ (mem_wireOperands hi)
  cases hr : cmdRow tab i.sel with
  | none => simp [hr] at hrow
  | some r => exact ⟨r, rfl, by simpa [hr] using hrow⟩

/-- An operand at a place where the types say `kind`. -/
theorem operand_of_kind {ops : List Operand} {k : Nat} {kind : OperandKind}
    (h : ((ops.map Operand.kind)[k]? == some kind) = true) : ∃ op, ops[k]? = some op ∧ op.kind = kind := by
  rw [beq_iff_eq, List.getElem?_map] at h
  exact Option.map_eq_some_iff.1 h

theorem enc16_isSome {v : Int} (h : inS16 v = true) : ∃ p, enc16 v = some p := ⟨_, if_pos h⟩

/-- R75 to R78: a field that fits has its bytes, if the s16 operands are in range. -/
theorem marshalField_of_fits {ops : List Operand} {f : Field} (hfits : f.fits (ops.map Operand.kind) = true)
    (hrange : ops.all Operand.inRange = true) : ∃ bs, marshalField ops f = some bs := by
  cases f with
  | u8 k =>
    obtain ⟨op, hop, hkind⟩ := operand_of_kind hfits
    cases op with
    | u8 b => exact ⟨_, by simp only [marshalField, hop]; rfl⟩
    | _ => cases hkind
  | s16 k =>
    obtain ⟨op, hop, hkind⟩ := operand_of_kind hfits
    cases op with
    | s16 v =>
      obtain ⟨p, hp⟩ := enc16_isSome (List.all_eq_true.1 hrange _ (List.mem_of_getElem? hop))
      exact ⟨_, by simp only [marshalField, hop, hp]; rfl⟩
    | _ => cases hkind
  | ord k =>
    obtain ⟨op, hop, hkind⟩ := operand_of_kind hfits
    cases op with
    | baud code => exact ⟨_, by simp only [marshalField, hop]; rfl⟩
    | _ => cases hkind
  | list k =>
    obtain ⟨op, hop, hkind⟩ := operand_of_kind hfits
    cases op with
    | list bs => exact ⟨_, by simp only [marshalField, hop]; rfl⟩
    | _ => cases hkind
  | pairs k =>
    obtain ⟨op, hop, hkind⟩ := operand_of_kind hfits
    cases op with
    | pairs ps => exact ⟨_, by simp only [marshalField, hop]; rfl⟩
    | _ => cases hkind

/-- R74: a layout that fits has its payload. -/
theorem marshal_of_fits {ops : List Operand} {layout : List Field}
    (hfits : layout.all (Field.fits (ops.map Operand.kind)) = true) (hrange : ops.all Operand.inRange = true) :
    ∃ payload, marshal ops layout = some payload := by
  induction layout with
  | nil => exact ⟨[], rfl⟩
  | cons f fs ih =>
    rw [List.all_cons, Bool.and_eq_true] at hfits
    obtain ⟨hf, hfs⟩ := hfits
    obtain ⟨bs, hbs⟩ := marshalField_of_fits hf hrange
    obtain ⟨rest, hrest⟩ := ih hfs
    exact ⟨bs ++ rest, by simp only [marshal, hbs, hrest]⟩

/-- Settles O57: the row is there, and each of its fields has its bytes. -/
theorem fittingTableHasEveryCommand : Obligations.FittingTableHasEveryCommand := by
  intro tab i htab hi hrange
  obtain ⟨r, hrow, hfits⟩ := cmdRow_of_cmdTabWf htab hi
  obtain ⟨payload, hpayload⟩ := marshal_of_fits hfits hrange
  exact ⟨r, payload, hrow, by simp only [commandBytes, hrow, hpayload]; rfl⟩

/-! ### The default table -/

section
variable {x y : Int} {xh xl yh yl : Byte}

/-- R181 to R198: the layouts with two signed fields. -/
theorem marshal_s16_s16 (hx : enc16 x = some (xh, xl)) (hy : enc16 y = some (yh, yl)) :
    marshal [.s16 x, .s16 y] [.s16 0, .s16 1] = some [xh, xl, yh, yl] := by
  simp [marshal, marshalField, hx, hy]

theorem marshal_s16 (hx : enc16 x = some (xh, xl)) : marshal [.s16 x] [.s16 0] = some [xh, xl] := by
  simp [marshal, marshalField, hx]

/-- R78: a counted list is its count and its bytes. -/
theorem marshal_list (bs : List Byte) : marshal [.list bs] [.list 0] = some (BitVec.ofNat 8 bs.length :: bs) := by
  simp [marshal, marshalField]

/-- R190: a song is its number, the count of its notes, and the notes. -/
theorem marshal_u8_pairs (b : Byte) (ps : List (Byte × Byte)) :
    marshal [.u8 b, .pairs ps] [.u8 0, .pairs 1] = some (b :: BitVec.ofNat 8 ps.length :: flattenPairs ps) := by
  simp [marshal, marshalField]

/-- R74, R199: the command of an operation whose row and payload are known. -/
theorem commandBytes_of_marshal {tab : CmdTab} {i : Instr} {op : Byte} {layout : List Field} {payload : List Byte}
    (hrow : cmdRow tab i.sel = some (plainRow op layout)) (hpayload : marshal i.operands layout = some payload) :
    commandBytes tab i = some (op :: payload) := by
  simp only [commandBytes, hrow, plainRow, hpayload]
  rfl

theorem commandBytes_drive (hx : enc16 x = some (xh, xl)) (hy : enc16 y = some (yh, yl)) :
    commandBytes defaultCmdTab (.drive x y) = some [137#8, xh, xl, yh, yl] :=
  commandBytes_of_marshal rfl (marshal_s16_s16 hx hy)

theorem commandBytes_driveDirect (hx : enc16 x = some (xh, xl)) (hy : enc16 y = some (yh, yl)) :
    commandBytes defaultCmdTab (.driveDirect x y) = some [145#8, xh, xl, yh, yl] :=
  commandBytes_of_marshal rfl (marshal_s16_s16 hx hy)

theorem commandBytes_drivePwm (hx : enc16 x = some (xh, xl)) (hy : enc16 y = some (yh, yl)) :
    commandBytes defaultCmdTab (.drivePwm x y) = some [146#8, xh, xl, yh, yl] :=
  commandBytes_of_marshal rfl (marshal_s16_s16 hx hy)

theorem commandBytes_waitDistance (hx : enc16 x = some (xh, xl)) :
    commandBytes defaultCmdTab (.waitDistance x) = some [156#8, xh, xl] :=
  commandBytes_of_marshal rfl (marshal_s16 hx)

theorem commandBytes_waitAngle (hx : enc16 x = some (xh, xl)) :
    commandBytes defaultCmdTab (.waitAngle x) = some [157#8, xh, xl] :=
  commandBytes_of_marshal rfl (marshal_s16 hx)

end

theorem commandBytes_readPacket (id : Byte) : commandBytes defaultCmdTab (.readPacket id) = some [142#8, id] := rfl

theorem commandBytes_readPacketList (ids : List Byte) :
    commandBytes defaultCmdTab (.readPacketList ids) = some ([149#8, BitVec.ofNat 8 ids.length] ++ ids) :=
  commandBytes_of_marshal rfl (marshal_list ids)

theorem commandBytes_streamStart (ids : List Byte) :
    commandBytes defaultCmdTab (.streamStart ids) = some ([148#8, BitVec.ofNat 8 ids.length] ++ ids) :=
  commandBytes_of_marshal rfl (marshal_list ids)

theorem commandBytes_storeScript (script : List Byte) :
    commandBytes defaultCmdTab (.storeScript script) = some ([152#8, BitVec.ofNat 8 script.length] ++ script) :=
  commandBytes_of_marshal rfl (marshal_list script)

theorem commandBytes_storeSong (song : Byte) (notes : List (Byte × Byte)) :
    commandBytes defaultCmdTab (.storeSong song notes) =
      some ([140#8, song, BitVec.ofNat 8 notes.length] ++ notes.flatMap fun p => [p.1, p.2]) :=
  commandBytes_of_marshal rfl (marshal_u8_pairs song notes)

theorem flattenPairs_length (ps : List (Byte × Byte)) : (ps.flatMap fun p => [p.1, p.2]).length = 2 * ps.length := by
  induction ps with
  | nil => rfl
  | cons p ps ih => simp [ih]; omega

/-! ### Lengths -/

/-- A command is the opcode of its row and the payload of its layout. -/
theorem commandBytes_some {tab : CmdTab} {i : Instr} {op : Byte} {layout : List Field} {bs : List Byte}
    (hrow : cmdRow tab i.sel = some (plainRow op layout)) (h : commandBytes tab i = some bs) :
    ∃ payload, marshal i.operands layout = some payload ∧ bs = op :: payload := by
  simp only [commandBytes, hrow, plainRow] at h
  obtain ⟨payload, hpayload, rfl⟩ := Option.map_eq_some_iff.1 h
  exact ⟨payload, hpayload, rfl⟩

theorem enc16_of_marshal_s16 {x : Int} {payload : List Byte} (h : marshal [.s16 x] [.s16 0] = some payload) :
    ∃ p, enc16 x = some p := by
  cases hx : enc16 x with
  | none => simp [marshal, marshalField, hx] at h
  | some p => exact ⟨p, rfl⟩

theorem enc16_of_marshal_s16_s16 {x y : Int} {payload : List Byte}
    (h : marshal [.s16 x, .s16 y] [.s16 0, .s16 1] = some payload) : ∃ p q, enc16 x = some p ∧ enc16 y = some q := by
  cases hx : enc16 x with
  | none => simp [marshal, marshalField, hx] at h
  | some p =>
    cases hy : enc16 y with
    | none => simp [marshal, marshalField, hx, hy] at h
    | some q => exact ⟨p, q, rfl, rfl⟩

/-- R79: a command with one signed field has three bytes. -/
theorem commandBytes_signed_length {i : Instr} {x : Int} {op : Byte} {bs : List Byte} (hops : i.operands = [.s16 x])
    (hrow : cmdRow defaultCmdTab i.sel = some (plainRow op [.s16 0])) (h : commandBytes defaultCmdTab i = some bs) :
    bs.length = 3 := by
  obtain ⟨payload, hpayload, rfl⟩ := commandBytes_some hrow h
  rw [hops] at hpayload
  obtain ⟨p, hp⟩ := enc16_of_marshal_s16 hpayload
  cases (marshal_s16 hp).symm.trans hpayload
  rfl

/-- R79: a command with two signed fields has five bytes. -/
theorem commandBytes_signedPair_length {i : Instr} {x y : Int} {op : Byte} {bs : List Byte}
    (hops : i.operands = [.s16 x, .s16 y])
    (hrow : cmdRow defaultCmdTab i.sel = some (plainRow op [.s16 0, .s16 1]))
    (h : commandBytes defaultCmdTab i = some bs) : bs.length = 5 := by
  obtain ⟨payload, hpayload, rfl⟩ := commandBytes_some hrow h
  rw [hops] at hpayload
  obtain ⟨p, q, hp, hq⟩ := enc16_of_marshal_s16_s16 hpayload
  cases (marshal_s16_s16 hp hq).symm.trans hpayload
  rfl

/-- Settles O56, by the format of the operation's row in the default table. -/
theorem commandLengths : Obligations.CommandLengths := by
  intro i bs h
  cases i with
  | enc16 | dec16 | readFrame | getBit | getU8 | getS16 | getU16 => cases h
  | drive | driveDirect | drivePwm => exact commandBytes_signedPair_length rfl rfl h
  | waitDistance | waitAngle => exact commandBytes_signed_length rfl rfl h
  | streamStart ids =>
    cases (commandBytes_streamStart ids).symm.trans h
    simp only [List.length_append, List.length_cons, List.length_nil]
  | readPacketList ids =>
    cases (commandBytes_readPacketList ids).symm.trans h
    simp only [List.length_append, List.length_cons, List.length_nil]
  | storeScript script =>
    cases (commandBytes_storeScript script).symm.trans h
    simp only [List.length_append, List.length_cons, List.length_nil]
  | storeSong song notes =>
    cases (commandBytes_storeSong song notes).symm.trans h
    simp only [List.length_append, List.length_cons, List.length_nil, flattenPairs_length]
  | _ =>
    cases h
    rfl

end Sys2Proof

/-! PROOFS. The one-shot commands (R151, R180 to R198), the operations that end early (R232, R233), and the refusals
that the invariant leaves. -/
namespace Sys2Proof.Machine

/-! ### Commands that complete -/

/-- R180: a command that is accepted and that the transport takes is recorded and ends with OK. -/
theorem exec_command_ok {i : Instr} {s : State} {bs : List Byte} (hlocal : isLocal i = false)
    (hreads : i.readsSensors = false) (hacc : s.accepts i = true) (hrange : i.operands.all Operand.inRange = true)
    (htab : s.cfg.cmdtab = defaultCmdTab) (hbs : commandBytes defaultCmdTab i = some bs)
    (hw : s.writesOk bs.length) :
    exec i s = .next ((s.emitted i bs (s.txFates.drop bs.length)).recorded i) := by
  have hwire : i.isWire = true := by rw [isWire_eq_not_isLocal, hlocal]; rfl
  rw [exec_command hwire hreads, hacc]
  exact emitThen_ok hrange (htab ▸ hbs) hw

/-- R180: a command that writes no register sends its bytes and changes nothing else. -/
theorem endsIn_command {i : Instr} {s : State} {bs : List Byte} (htab : s.cfg.cmdtab = defaultCmdTab)
    (hlocal : isLocal i = false) (hreads : i.readsSensors = false) (hmode : i.setsMode = false)
    (hsreq : i.setsSreq = false) (hacc : s.accepts i = true) (hrange : i.operands.all Operand.inRange = true)
    (hbs : commandBytes defaultCmdTab i = some bs) (hw : s.writesOk bs.length) :
    EndsIn (exec i s) ((s.sent bs).ended i .none) := by
  rw [exec_command_ok hlocal hreads hacc hrange htab hbs hw]
  refine ⟨Work.cleared, congrArg Host.Outcome.next ?_⟩
  simp only [State.recorded, State.emitted, modeAfter_of_not_setsMode hmode, sreqAfter_of_not_setsSreq hsreq]
  rfl

/-- Settles O15: each is a command of two bytes that writes no register. -/
theorem oneByteCommandsComplete : Obligations.OneByteCommandsComplete := by
  intro s b htab hw
  refine ⟨fun code hcode => ?_, ?_, ?_, ?_, ?_, ?_, ?_, ?_⟩
  · exact endsIn_command htab rfl rfl rfl rfl (decide_eq_true hcode) rfl rfl hw
  all_goals exact endsIn_command htab rfl rfl rfl rfl rfl rfl rfl hw

/-- Settles O16: two commands of one byte and two of four, that write no register. -/
theorem bareAndThreeByteCommandsComplete : Obligations.BareAndThreeByteCommandsComplete := by
  refine ⟨fun s htab hw => ⟨?_, ?_⟩, fun s a b c htab hw => ⟨?_, ?_⟩⟩
  all_goals exact endsIn_command htab rfl rfl rfl rfl rfl rfl rfl hw

theorem inS16_of_enc16 {v : Int} {p : Byte × Byte} (h : enc16 v = some p) : inS16 v = true := by
  by_contra hout
  rw [enc16, if_neg hout] at h
  cases h

theorem inRange_s16 {x : Int} {p : Byte × Byte} (hx : enc16 x = some p) :
    [Operand.s16 x].all Operand.inRange = true := by
  simp [Operand.inRange, inS16_of_enc16 hx]

theorem inRange_s16_s16 {x y : Int} {p q : Byte × Byte} (hx : enc16 x = some p) (hy : enc16 y = some q) :
    [Operand.s16 x, .s16 y].all Operand.inRange = true := by
  simp [Operand.inRange, inS16_of_enc16 hx, inS16_of_enc16 hy]

/-- Settles O17: the operands that encode are in range, and their codes are the payload. -/
theorem signedFieldCommandsComplete : Obligations.SignedFieldCommandsComplete := by
  refine ⟨fun s x y xh xl yh yl htab hw hx hy => ?_, fun s x xh xl htab hw hx => ?_⟩
  · have hrange := inRange_s16_s16 hx hy
    exact ⟨endsIn_command htab rfl rfl rfl rfl rfl hrange (commandBytes_drive hx hy) hw,
      endsIn_command htab rfl rfl rfl rfl rfl hrange (commandBytes_driveDirect hx hy) hw,
      endsIn_command htab rfl rfl rfl rfl rfl hrange (commandBytes_drivePwm hx hy) hw⟩
  · have hrange := inRange_s16 hx
    exact ⟨endsIn_command htab rfl rfl rfl rfl rfl hrange (commandBytes_waitDistance hx) hw,
      endsIn_command htab rfl rfl rfl rfl rfl hrange (commandBytes_waitAngle hx) hw⟩

/-- A transport that takes as many bytes as the command has takes the command. -/
theorem State.writesOk.of_commandBytes {s : State} {i : Instr} {bs : List Byte} {n : Nat} (h : s.writesOk n)
    (hbs : commandBytes defaultCmdTab i = some bs)
    (hlen : ∀ bs', commandBytes defaultCmdTab i = some bs' → bs'.length = n) : s.writesOk bs.length :=
  (hlen bs hbs).symm ▸ h

/-- Settles O18: both are commands that write no register, of the length O56 gives. -/
theorem storeCommandsComplete : Obligations.StoreCommandsComplete := by
  refine ⟨fun s song notes htab hlen hw => ?_, fun s script htab hlen hw => ?_⟩
  · have hbs := commandBytes_storeSong song notes
    exact endsIn_command htab rfl rfl rfl rfl (decide_eq_true hlen) rfl hbs (hw.of_commandBytes hbs (commandLengths _))
  · have hbs := commandBytes_storeScript script
    exact endsIn_command htab rfl rfl rfl rfl (decide_eq_true hlen) rfl hbs (hw.of_commandBytes hbs (commandLengths _))

/-- Settles O34: STREAM_START is a command that writes SREQ, and READ_FRAME_SREQ reads it back. -/
theorem streamStartCompletes : Obligations.StreamStartCompletes := by
  intro s ids htab hknown hw
  have hbs := commandBytes_streamStart ids
  have hwrites := hw.of_commandBytes hbs (commandLengths _)
  have hexec := exec_command_ok (i := .streamStart ids) rfl rfl hknown rfl htab hbs hwrites
  exact ⟨_, hexec, rfl, Work.cleared, rfl⟩

/-! ### Operations that end early -/

/-- Settles O19: an operation whose check fails is concluded where it was accepted. -/
theorem refusedOperandsCostNothing : Obligations.RefusedOperandsCostNothing := by
  intro i s hacc
  cases execCase i s with
  | invalid _ h => exact ⟨Work.cleared, h s s.looksLike_refl⟩
  | outOfRange h | noCommand h | wrongLength h | notPopulated h | answered h | writeFailed h | sent h | requested h
  | hunts h => cases hacc.symm.trans h

/-- Settles O21: the operation is `emitThen` with a check that passes, and its write fails after `k` bytes. -/
theorem failedWriteLeavesAPrefixSent : Obligations.FailedWriteLeavesAPrefixSent := by
  intro i s bs k rest hwire hacc hrange hbs hk hfates
  have hexec : ∃ after, exec i s = emitThen i true after s := by
    cases hreads : i.readsSensors with
    | false => exact ⟨_, hacc ▸ exec_command hwire hreads s⟩
    | true => exact ⟨_, hacc ▸ exec_request hwire hreads s⟩
  obtain ⟨after, hexec⟩ := hexec
  rw [hexec, emitThen_fail hrange hbs hk hfates]
  exact ⟨Work.cleared, rfl⟩

/-! ### Faults and refusals under the invariant -/

/-- R70: bytes that are no record are refused by name. -/
theorem step_of_malformed {s : State} {record : List Byte} {rest : List (List Byte)} {e : DecodeError}
    (hwf : s.cfg.wf = true) (hidle : s.phase = .idle) (hhost : s.host = record :: rest)
    (hdecode : decode s.cfg.valueW record = .error e) (he : ∀ sel, e ≠ .unknownSelector sel) :
    step s = .refused (.malformedRecord e) := by
  cases e with
  | unknownSelector sel => exact absurd rfl (he sel)
  | _ => simp only [step, hwf, if_true, hidle, State.takeRecord, hhost, hdecode]

/-- What a step of a well-formed block at rest is: it answers, it executes an operation, or the record is malformed. -/
theorem step_of_atRest {s : State} (hwf : s.cfg.wf = true) (hrest : s.atRest) :
    (∃ t, step s = .next t) ∨ (∃ i rest, step s = exec i { s with host := rest }) ∨
      ∃ e, step s = .refused (.malformedRecord e) := by
  rcases hrest with hidle | hwaits
  · cases hhost : s.host with
    | nil => exact .inl ⟨s, step_of_no_record hwf hidle hhost⟩
    | cons record rest =>
      cases hdecode : decode s.cfg.valueW record with
      | ok p => exact .inr (.inl ⟨p.1, rest, step_of_decode_ok hwf hidle hhost hdecode⟩)
      | error e =>
        by_cases he : ∃ sel, e = .unknownSelector sel
        · obtain ⟨sel, rfl⟩ := he
          exact .inl ⟨_, step_of_unknownSelector hwf hidle hhost hdecode⟩
        · exact .inr (.inr ⟨e, step_of_malformed hwf hidle hhost hdecode fun sel hsel => he ⟨sel, hsel⟩⟩)
  · exact .inl ⟨_, step_of_waits hwf hwaits⟩

/-- R43: an operation faults only on an entry of another length than its packet's, which a fitting cache has not. -/
theorem exec_ne_fault {i : Instr} {s : State} (hcache : CacheFits s.cfg.catalogue s.cache) (r : Fault) :
    exec i s ≠ .fault r := by
  intro h
  cases execCase i s with
  | wrongLength _ id d hread hlen _ => exact hlen (hcache.length_of_read hread)
  | invalid _ hexec | outOfRange _ hexec | noCommand _ _ _ _ hexec | notPopulated _ _ hexec | answered _ _ _ hexec
  | writeFailed _ _ _ _ _ _ hexec | sent _ _ _ _ _ hexec | requested _ _ _ _ _ _ _ hexec | hunts _ _ _ hexec =>
    cases (hexec s s.looksLike_refl).symm.trans h

/-- R237: with a command table that fits, an operation is refused only for an s16 operand out of range. -/
theorem exec_refused {i : Instr} {s : State} {r : Refusal} (htab : cmdTabWf s.cfg.cmdtab = true)
    (h : exec i s = .refused r) : r = .s16OutOfRange := by
  cases execCase i s with
  | noCommand _ hwire hrange hnone _ =>
    obtain ⟨row, payload, -, hsome⟩ := fittingTableHasEveryCommand _ i htab hwire hrange
    cases hnone.symm.trans hsome
  | outOfRange _ hexec =>
    cases (hexec s s.looksLike_refl).symm.trans h
    rfl
  | invalid _ hexec | wrongLength _ _ _ _ _ hexec | notPopulated _ _ hexec | answered _ _ _ hexec
  | writeFailed _ _ _ _ _ _ hexec | sent _ _ _ _ _ hexec | requested _ _ _ _ _ _ _ hexec | hunts _ _ _ hexec =>
    cases (hexec s s.looksLike_refl).symm.trans h

/-- Settles O49: of a block at rest only an operation can fault, and a fitting cache gives it no cause. -/
theorem noFaultUnderTheInvariant : Obligations.NoFaultUnderTheInvariant := by
  intro s r ⟨hwf, hrest, hcache, _, _⟩ h
  rcases step_of_atRest hwf hrest with ⟨t, ht⟩ | ⟨i, rest, hi⟩ | ⟨e, he⟩
  · cases ht.symm.trans h
  · exact exec_ne_fault (s := { s with host := rest }) hcache r (hi.symm.trans h)
  · cases he.symm.trans h

/-- Settles O50: of a block at rest an operation is refused, or a malformed record. -/
theorem refusalsUnderTheInvariant : Obligations.RefusalsUnderTheInvariant := by
  intro s r ⟨hwf, hrest, _, _, _⟩ h
  obtain ⟨-, htab, -⟩ := Config.wf_parts hwf
  rcases step_of_atRest hwf hrest with ⟨t, ht⟩ | ⟨i, rest, hi⟩ | ⟨e, he⟩
  · cases ht.symm.trans h
  · exact .inl (exec_refused (s := { s with host := rest }) htab (hi.symm.trans h))
  · cases he.symm.trans h
    exact .inr ⟨e, rfl⟩

end Sys2Proof.Machine

/-! PROOFS. The codec's round trip (R105), the default catalogues (R7, R127), what a commit writes (R46), and the table
of the phase transitions (R162). -/
namespace Sys2Proof.Machine

/-! ### The codec's round trip -/

/-- R100: the pattern of a value in range is a number of 16 bits. -/
theorem pattern16_lt {v : Int} (hlo : -32768 ≤ v) (hhi : v ≤ 32767) : pattern16 v < 65536 := by
  rcases Int.lt_or_le v 0 with hneg | hpos
  · rw [pattern16_of_neg hneg]; omega
  · rw [pattern16_of_nonneg hpos]; omega

/-- R48: a number of 16 bits is that of its two bytes. -/
theorem u16_of_bytes {p : Nat} (hp : p < 65536) : u16 (BitVec.ofNat 8 (p / 256)) (BitVec.ofNat 8 (p % 256)) = p := by
  simp only [u16, BitVec.toNat_ofNat]
  omega

/-- R48: two bytes are those of their number. -/
theorem bytes_of_u16 (h l : Byte) : BitVec.ofNat 8 (u16 h l / 256) = h ∧ BitVec.ofNat 8 (u16 h l % 256) = l := by
  have hh := h.isLt
  have hl := l.isLt
  constructor <;> apply BitVec.eq_of_toNat_eq <;> simp only [u16, BitVec.toNat_ofNat] <;> omega

/-- R105: a value in range is the decode of its pattern. -/
theorem dec16_of_pattern16 {v : Int} (hlo : -32768 ≤ v) (hhi : v ≤ 32767) {h l : Byte} (hu : u16 h l = pattern16 v) :
    dec16 h l = v := by
  rcases Int.lt_or_le v 0 with hneg | hpos
  · rw [pattern16_of_neg hneg] at hu
    rw [dec16_of_le (by omega)]
    omega
  · rw [pattern16_of_nonneg hpos] at hu
    rw [dec16_of_lt (by omega)]
    omega

/-- R105: the pattern of a decode is the number decoded. -/
theorem pattern16_dec16 (h l : Byte) : pattern16 (dec16 h l) = u16 h l := by
  have hmax := u16_le h l
  rcases Nat.lt_or_ge (u16 h l) 32768 with hu | hu
  · rw [dec16_of_lt hu, pattern16_of_nonneg (by omega)]; omega
  · rw [dec16_of_le hu, pattern16_of_neg (by omega)]; omega

/-- R105: decode after encode. -/
theorem dec16_of_enc16 {v : Int} {h l : Byte} (henc : enc16 v = some (h, l)) : dec16 h l = v := by
  obtain ⟨hlo, hhi⟩ := inS16_iff.1 (inS16_of_enc16 henc)
  rw [enc16_of_inRange hlo hhi] at henc
  cases henc
  exact dec16_of_pattern16 hlo hhi (u16_of_bytes (pattern16_lt hlo hhi))

/-- R105: encode after decode. -/
theorem enc16_dec16 (h l : Byte) : enc16 (dec16 h l) = some (h, l) := by
  obtain ⟨hlo, hhi⟩ := dec16_inRange h l
  obtain ⟨hhigh, hlow⟩ := bytes_of_u16 h l
  rw [enc16_of_inRange hlo hhi, pattern16_dec16, hhigh, hlow]

/-- Settles O10: decode takes back what encode gives, which makes encode injective. -/
theorem codecRoundTrip : Obligations.CodecRoundTrip := by
  refine ⟨fun v hlo hhi => ⟨_, _, enc16_of_inRange hlo hhi, dec16_of_enc16 (enc16_of_inRange hlo hhi)⟩, enc16_dec16,
    fun v w hlo hhi heq => ?_⟩
  have hv := enc16_of_inRange hlo hhi
  exact (dec16_of_enc16 hv).symm.trans (dec16_of_enc16 (heq.symm.trans hv))

/-! ### The default catalogues -/

/-- Settles O26: facts of the two default tables, by evaluation. -/
theorem defaultCataloguesAreWellFormed : Obligations.DefaultCataloguesAreWellFormed := by
  have hlengths : ∀ p, [0#8, 1#8, 2#8, 3#8, 4#8, 5#8, 6#8].map (byteLength (defaultCatalogue p)) =
      [26, 10, 6, 10, 14, 12, 52] := by intro p; cases p <;> decide
  have hgroup : ∀ p, expand (defaultCatalogue p) 2#8 = [17#8, 18#8, 19#8, 20#8] := by
    intro p; cases p <;> decide +kernel
  have hunknown : ∀ p, inCatalogue (defaultCatalogue p) 59#8 = false := by intro p; cases p <;> decide
  exact ⟨by decide +kernel, by decide +kernel, hlengths, hgroup, by decide, by decide, by decide, by decide, hunknown⟩

theorem defaultCatalogue_wf (p : ProtocolVersion) : catalogueWf (defaultCatalogue p) = true := by
  obtain ⟨hv1, hv2, -⟩ := defaultCataloguesAreWellFormed
  cases p
  · exact hv1
  · exact hv2

/-- R127: group 100 is the longest packet. -/
theorem defaultCatalogue_byteLength_le (p : ProtocolVersion) : ∀ d ∈ defaultCatalogue p, d.byteLength ≤ 80 := by
  cases p <;> decide

/-- An id that is not in the catalogue expands to nothing. -/
theorem expand_unknown {c : Catalogue} {id : Byte} (h : inCatalogue c id = false) : expand c id = [] := by
  have hnone : descriptor c id.toNat = none := by simpa [inCatalogue] using h
  unfold expand
  cases c.length with
  | zero => rfl
  | succ fuel => simp only [expandWithin, hnone]

/-- R7: one packet of a default catalogue has at most 80 bytes. -/
theorem totalLen_default_le (p : ProtocolVersion) (id : Byte) : totalLen (defaultCatalogue p) [id] ≤ 80 := by
  cases hid : inCatalogue (defaultCatalogue p) id with
  | false =>
    rw [totalLen_singleton, expand_unknown hid]
    exact Nat.zero_le _
  | true =>
    obtain ⟨d, hd⟩ := Option.isSome_iff_exists.1 hid
    obtain ⟨-, hmem⟩ := descriptor_some hd
    rw [totalLen_singleton_eq (defaultCatalogue_wf p) hid, byteLength, hd]
    exact defaultCatalogue_byteLength_le p d hmem

/-- Settles O27: each of the 255 packets has at most 80 bytes. -/
theorem defaultTotalsFitFifteenBits : Obligations.DefaultTotalsFitFifteenBits := by
  intro p ids hlen
  have hbound : totalLen (defaultCatalogue p) ids ≤ 80 * ids.length := by
    clear hlen
    induction ids with
    | nil => exact Nat.le_refl 0
    | cons id ids ih =>
      have hid := totalLen_default_le p id
      rw [totalLen_cons, List.length_cons]
      omega
  omega

/-! ### What a commit writes -/

/-- R46: the entry of the first id, if it does not occur again, holds the first bytes. -/
theorem Memory.read_commit_head (c : Catalogue) {a : Byte} {as : List Byte} (ha : a ∉ as) (stage : List Byte)
    (m : Memory) : (Memory.commit c (a :: as) stage m).read a.toNat = some (stage.take (byteLength c a)) := by
  have hother : ∀ b ∈ as, b.toNat ≠ a.toNat := fun b hb heq => ha (BitVec.eq_of_toNat_eq heq ▸ hb)
  rw [Memory.commit, Memory.read_commit_other _ _ _ _ hother, Memory.read_write_same]

/-- Settles O28: a commit is that of the ids before an occurrence, then of the rest, which begins with it. -/
theorem commitKeepsTheLastOccurrence : Obligations.CommitKeepsTheLastOccurrence := by
  intro c atoms stage m
  refine ⟨fun k a hk hlast => ?_, fun id hid => Memory.read_commit_other c atoms stage m fun a ha heq => ?_⟩
  · obtain ⟨hlt, rfl⟩ := List.getElem?_eq_some_iff.1 hk
    have hsplit : atoms = atoms.take k ++ atoms[k] :: atoms.drop (k + 1) := by
      rw [← List.drop_eq_getElem_cons hlt, List.take_append_drop]
    have hread := Memory.read_commit_head c hlast (stage.drop (sumLen c (atoms.take k)))
      (Memory.commit c (atoms.take k) stage m)
    rwa [← Memory.commit_append, ← hsplit] at hread
  · exact hid (BitVec.eq_of_toNat_eq heq ▸ ha)

/-! ### The table of the phase transitions -/

/-- Settles O41: in each phase the byte goes to the handler of that phase, which tests it. -/
theorem framePhasesFollowTheTable : Obligations.FramePhasesFollowTheTable := by
  refine ⟨fun s b hphase => ⟨fun hdisc => ?_, fun hb => ?_, fun hb => ?_⟩,
    fun s b hphase => ⟨fun hlen => ?_, fun hlen => ?_⟩, fun s b want hphase hwant => ⟨fun hb => ?_, fun hb => ?_⟩,
    fun s b hphase => ⟨fun hcnt => ?_, fun hcnt hidx => ?_, fun hcnt hidx => ?_⟩,
    fun s b hphase => ⟨fun hsum => ?_, fun hsum => ?_⟩, fun s hwaits => ⟨rfl, rfl⟩⟩
  · simp [State.settle, hphase, hdisc]
  · simp [State.onItem, hphase, State.onHunt, hb]
  · simp [State.onItem, hphase, State.onHunt, hb]
  · simp [State.onItem, hphase, State.onFlen, lengthOk, hlen]
  · simp [State.onItem, hphase, State.onFlen, lengthOk, hlen]
  · simp [State.onItem, hphase, State.onPid, hwant, hb]
  · simp [State.onItem, hphase, State.onPid, hwant, hb]
  · simp [State.onItem, hphase, State.onPdata, Nat.not_le.2 hcnt]
  · simp [State.onItem, hphase, State.onPdata, hcnt, hidx]
  · simp [State.onItem, hphase, State.onPdata, hcnt, hidx]
  · simp [State.onItem, hphase, State.onFchk, checksumOk, addChecksum, hsum]
  · simp [State.onItem, hphase, State.onFchk, checksumOk, addChecksum, hsum]

end Sys2Proof.Machine

/-! PROOFS. What every operation and every step does to the parts of the state (R10, R22, R23, R230, R240), and what
an operation does not depend on (R19, R20, R247), by the cases of `ExecCase`. -/
namespace Sys2Proof.Machine

/-! ### The ports -/

/-- R10, R22, R23: `t` comes after `s` on the ports, in one operation: nothing is taken back, nothing skipped, and no
record is taken. -/
def State.forward (s t : State) : Prop :=
  t.cfg = s.cfg ∧ (∃ sent, t.txLog = s.txLog ++ sent) ∧ (∃ taken, s.rx = taken ++ t.rx) ∧
    (∃ gone, s.txFates = gone ++ t.txFates) ∧ t.host = s.host

/-- Reading what RX holds moves forward on RX only. -/
theorem State.forward_runRx {s u : State} (h : s.forward u) : s.forward u.runRx := by
  obtain ⟨hcfg, hlog, ⟨taken, htaken⟩, ⟨gone, hgone⟩, hhost⟩ := h
  obtain ⟨hcfg', -, -, -, hhost', hfates', hlog'⟩ := State.pump_frame u.rx u
  obtain ⟨read, hread⟩ := State.pump_rx u.rx u
  refine ⟨hcfg'.trans hcfg, ?_, ⟨taken ++ read, ?_⟩, ⟨gone, ?_⟩, hhost'.trans hhost⟩
  · obtain ⟨sent, hsent⟩ := hlog
    exact ⟨sent, hlog'.trans hsent⟩
  · rw [htaken, List.append_assoc]
    exact congrArg (taken ++ ·) hread
  · rw [hgone]
    exact congrArg (gone ++ ·) hfates'.symm

theorem exec_forward {i : Instr} {s t : State} (h : exec i s = .next t) : s.forward t := by
  cases execCase i s with
  | invalid _ hexec | notPopulated _ _ hexec | answered _ _ _ hexec =>
    cases (hexec s s.looksLike_refl).symm.trans h
    exact ⟨rfl, ⟨[], (List.append_nil _).symm⟩, ⟨[], rfl⟩, ⟨[], rfl⟩, rfl⟩
  | outOfRange _ hexec | noCommand _ _ _ _ hexec | wrongLength _ _ _ _ _ hexec =>
    cases (hexec s s.looksLike_refl).symm.trans h
  | writeFailed _ _ bs gone fates hfates hexec =>
    cases (hexec s s.looksLike_refl).symm.trans h
    exact ⟨rfl, ⟨bs, rfl⟩, ⟨[], rfl⟩, ⟨gone, hfates⟩, rfl⟩
  | sent _ bs gone fates hfates hexec =>
    cases (hexec s s.looksLike_refl).symm.trans h
    exact ⟨rfl, ⟨bs, rfl⟩, ⟨[], rfl⟩, ⟨gone, hfates⟩, rfl⟩
  | requested _ _ _ bs gone fates hfates hexec =>
    cases (hexec s s.looksLike_refl).symm.trans h
    exact State.forward_runRx ⟨rfl, ⟨bs, rfl⟩, ⟨[], rfl⟩, ⟨gone, hfates⟩, rfl⟩
  | hunts _ ids _ hexec =>
    cases (hexec s s.looksLike_refl).symm.trans h
    exact State.forward_runRx ⟨rfl, ⟨[], (List.append_nil _).symm⟩, ⟨[], rfl⟩, ⟨[], rfl⟩, rfl⟩

/-- Settles O51: a step waits, answers an unknown selector, reads on, or executes an operation, behind at most one
record. -/
theorem portsMoveForwardOnly : Obligations.PortsMoveForwardOnly := by
  intro s t h
  have hkeep : s.forward s := ⟨rfl, ⟨[], (List.append_nil _).symm⟩, ⟨[], rfl⟩, ⟨[], rfl⟩, rfl⟩
  rcases step_next h with ⟨-, -, rfl⟩ | ⟨-, record, rest, hhost, ⟨i, left, -, hexec⟩ | ⟨sel, -, rfl⟩⟩ | ⟨-, rfl⟩
  · exact ⟨rfl, ⟨[], (List.append_nil _).symm⟩, ⟨[], rfl⟩, ⟨[], rfl⟩, .inl rfl⟩
  · obtain ⟨hcfg, hlog, hrx, hfates, htaken⟩ := exec_forward hexec
    exact ⟨hcfg, hlog, hrx, hfates, .inr ⟨record, htaken ▸ hhost⟩⟩
  · exact ⟨rfl, ⟨[], (List.append_nil _).symm⟩, ⟨[], rfl⟩, ⟨[], rfl⟩, .inr ⟨record, hhost⟩⟩
  · obtain ⟨hcfg, hlog, hrx, hfates, hsame⟩ := State.forward_runRx hkeep
    exact ⟨hcfg, hlog, hrx, hfates, .inl hsame⟩

/-! ### How operations end -/

/-- R136, R233: a response that has ended has ended with OK, or a read of it has failed. -/
def State.respOutcome (s : State) : Prop :=
  s.phase = .resp ∨
  s.phase = .idle ∧ (s.res.status = .ok ∧ s.res.sub = .none ∨ s.res = ⟨.transportFailure, .none, .none⟩)

/-- R18: the phases of READ_FRAME. -/
def Phase.inFrame : Phase → Bool
  | .hunt | .flen | .pid | .pdata | .fchk => true
  | _ => false

/-- R155, R156, R157, R159, R233: a frame read that has ended has ended with OK, or without data for one of the reasons
the rules give, of which `FRAME_INTEGRITY` has a sub-cause. -/
def State.frameOutcome (s : State) : Prop :=
  s.phase.inFrame = true ∨
  s.phase = .idle ∧ (s.res.status = .ok ∧ s.res.sub = .none ∨ s.res = ⟨.transportFailure, .none, .none⟩ ∨
    s.res = ⟨.protocolDesync, .none, .none⟩ ∨ ∃ sub, sub ≠ .none ∧ s.res = ⟨.frameIntegrity, sub, .none⟩)

theorem State.onItem_respOutcome (item : RxItem) {s : State} (h : s.respOutcome) (hwaits : s.phase.waits = true) :
    (s.onItem item).respOutcome := by
  rcases h with hphase | ⟨hidle, -⟩
  · cases item with
    | fail => exact .inr ⟨rfl, .inr rfl⟩
    | byte b =>
      rw [State.onItem_resp hphase]
      exact .inl hphase
  · rw [hidle] at hwaits
    cases hwaits

theorem State.settle_respOutcome {s : State} (h : s.respOutcome) : s.settle.respOutcome := by
  rcases s.settle_cases with hs | ⟨hhunt, -⟩ | ⟨-, -, hs⟩
  · rwa [hs]
  · rcases h with hphase | ⟨hphase, -⟩ <;> cases hhunt.symm.trans hphase
  · rw [hs]
    exact .inr ⟨rfl, .inl ⟨rfl, rfl⟩⟩

theorem State.pump_respOutcome (items : List RxItem) {s : State} (h : s.respOutcome) :
    (State.pump items s).respOutcome :=
  pump_induction (P := State.respOutcome) (Q := State.respOutcome) (fun _ => State.settle_respOutcome)
    (fun item _ => State.onItem_respOutcome item) (fun _ _ hs => hs) (fun _ _ => .inr ⟨rfl, .inr rfl⟩) items h

theorem State.settle_frameOutcome {s : State} (h : s.frameOutcome) : s.settle.frameOutcome := by
  rcases s.settle_cases with hs | ⟨-, -, hs⟩ | ⟨hresp, -⟩
  · rwa [hs]
  · rw [hs]
    exact .inr ⟨rfl, .inr (.inr (.inl rfl))⟩
  · rcases h with hphase | ⟨hphase, -⟩
    · rw [hresp] at hphase
      cases hphase
    · cases hresp.symm.trans hphase

theorem State.raise_frameIntegrity_outcome (s : State) {sub : SubCause} (h : sub ≠ .none) :
    (s.raise .frameIntegrity sub).frameOutcome := .inr ⟨rfl, .inr (.inr (.inr ⟨sub, h, rfl⟩))⟩

theorem State.onItem_frameOutcome (item : RxItem) {s : State} (h : s.frameOutcome) (hwaits : s.phase.waits = true) :
    (s.onItem item).frameOutcome := by
  cases item with
  | fail => exact .inr ⟨rfl, .inr (.inl rfl)⟩
  | byte b =>
    cases hphase : s.phase with
    | hunt =>
      rw [State.onItem_hunt hphase, State.onHunt]
      split_ifs
      · exact .inl rfl
      · exact .inl (congrArg Phase.inFrame hphase)
    | flen =>
      rw [State.onItem_flen hphase, State.onFlen]
      split_ifs
      · exact .inl rfl
      · exact .inl rfl
      · exact s.raise_frameIntegrity_outcome nofun
    | pid =>
      rw [State.onItem_pid hphase, State.onPid]
      split
      · split_ifs
        · exact .inl rfl
        · exact s.raise_frameIntegrity_outcome nofun
      · exact s.raise_frameIntegrity_outcome nofun
    | pdata =>
      rw [State.onItem_pdata hphase, State.onPdata]
      split_ifs
      · exact .inl rfl
      · exact .inl rfl
      · exact .inl (congrArg Phase.inFrame hphase)
    | fchk =>
      rw [State.onItem_fchk hphase, State.onFchk]
      split_ifs
      · exact .inr ⟨rfl, .inl ⟨rfl, rfl⟩⟩
      · exact s.raise_frameIntegrity_outcome nofun
    | resp =>
      rcases h with h | ⟨h, -⟩
      · rw [hphase] at h
        cases h
      · cases hphase.symm.trans h
    | idle | check | emit | commit =>
      rw [hphase] at hwaits
      cases hwaits

theorem State.pump_frameOutcome (items : List RxItem) {s : State} (h : s.frameOutcome) :
    (State.pump items s).frameOutcome :=
  pump_induction (P := State.frameOutcome) (Q := State.frameOutcome) (fun _ => State.settle_frameOutcome)
    (fun item _ => State.onItem_frameOutcome item) (fun _ _ hs => hs) (fun _ _ => .inr ⟨rfl, .inr (.inl rfl)⟩) items h

/-- R73, R230: the result of an operation that has ended, by the operation: what O23 says of it. -/
def EndsProperly (i : Instr) (accepted : Bool) (r : ResLatch) : Prop :=
  (r.status = .invalidArgument ↔ accepted = false) ∧
  (r.status = .protocolDesync → ∃ ids, i = .readFrame ids) ∧
  (r.status = .frameIntegrity → ∃ ids, i = .readFrame ids) ∧
  (r.status = .notPopulated → i.isAccessor = true) ∧
  (r.status = .transportFailure → i.isWire = true ∨ ∃ ids, i = .readFrame ids) ∧
  (r.sub ≠ .none ↔ r.status = .frameIntegrity) ∧
  (r.status ≠ .ok → r.data = .none)

theorem endsProperly_ok {i : Instr} {r : ResLatch} (hok : r.status = .ok) (hsub : r.sub = .none) :
    EndsProperly i true r := by
  simp [EndsProperly, hok, hsub]

theorem endsProperly_transportFailure {i : Instr} (h : i.isWire = true ∨ ∃ ids, i = .readFrame ids) :
    EndsProperly i true ⟨.transportFailure, .none, .none⟩ := by
  simp [EndsProperly, h]

theorem exec_endsProperly {i : Instr} {s t : State} (h : exec i s = .next t) (hidle : t.phase = .idle) :
    EndsProperly i (s.accepts i) t.res := by
  cases execCase i s with
  | invalid hacc hexec =>
    cases (hexec s s.looksLike_refl).symm.trans h
    rw [hacc]
    simp [EndsProperly, State.concluded]
  | notPopulated hacc haccessor hexec =>
    cases (hexec s s.looksLike_refl).symm.trans h
    rw [hacc]
    simp [EndsProperly, State.concluded, haccessor]
  | answered hacc _ data hexec =>
    cases (hexec s s.looksLike_refl).symm.trans h
    rw [hacc]
    exact endsProperly_ok rfl rfl
  | outOfRange _ hexec | noCommand _ _ _ _ hexec | wrongLength _ _ _ _ _ hexec =>
    cases (hexec s s.looksLike_refl).symm.trans h
  | writeFailed hacc hwire _ _ _ _ hexec =>
    cases (hexec s s.looksLike_refl).symm.trans h
    rw [hacc]
    exact endsProperly_transportFailure (.inl hwire)
  | sent hacc _ _ _ _ hexec =>
    cases (hexec s s.looksLike_refl).symm.trans h
    rw [hacc]
    exact endsProperly_ok rfl rfl
  | requested hacc hwire _ bs gone fates _ hexec =>
    cases (hexec s s.looksLike_refl).symm.trans h
    rw [hacc]
    have houtcome : (State.respond i (s.emitted i bs fates)).respOutcome := State.pump_respOutcome _ (.inl rfl)
    rcases houtcome with hresp | ⟨-, ⟨hok, hsub⟩ | hfail⟩
    · cases hresp.symm.trans hidle
    · exact endsProperly_ok hok hsub
    · rw [hfail]
      exact endsProperly_transportFailure (.inl hwire)
  | hunts hacc ids hi hexec =>
    cases (hexec s s.looksLike_refl).symm.trans h
    rw [hacc]
    have houtcome : (s.hunting ids).runRx.frameOutcome := State.pump_frameOutcome _ (.inl rfl)
    rcases houtcome with hframe | ⟨-, ⟨hok, hsub⟩ | hfail | hdesync | ⟨sub, hsub, hfail⟩⟩
    · rw [hidle] at hframe
      cases hframe
    · exact endsProperly_ok hok hsub
    · rw [hfail]
      exact endsProperly_transportFailure (.inr ⟨ids, hi⟩)
    · rw [hdesync]
      simp [EndsProperly, hi]
    · rw [hfail]
      simp [EndsProperly, hi, hsub]

/-- Settles O23, by the cases of what an operation can do; the results of a read are those of its phases. -/
theorem statusesByOperation : Obligations.StatusesByOperation := fun _ _ _ h hidle => exec_endsProperly h hidle

/-- Settles O20: `INVALID_ARGUMENT` means that the operands were not accepted. -/
theorem acceptedOperandsAreNotInvalid : Obligations.AcceptedOperandsAreNotInvalid := by
  intro i s t hacc h hidle hinvalid
  obtain ⟨hiff, -⟩ := exec_endsProperly h hidle
  cases hacc.symm.trans (hiff.1 hinvalid)

/-! ### Where operations end -/

/-- Settles O42: every case but the two reads ends idle, and these read until they end or RX is exhausted. -/
theorem operationsEndIdleOrWaitOnEmptyRx : Obligations.OperationsEndIdleOrWaitOnEmptyRx := by
  intro i s t h
  cases execCase i s with
  | invalid _ hexec | notPopulated _ _ hexec | answered _ _ _ hexec | writeFailed _ _ _ _ _ _ hexec
  | sent _ _ _ _ _ hexec =>
    cases (hexec s s.looksLike_refl).symm.trans h
    exact .inl rfl
  | outOfRange _ hexec | noCommand _ _ _ _ hexec | wrongLength _ _ _ _ _ hexec =>
    cases (hexec s s.looksLike_refl).symm.trans h
  | requested _ _ _ _ _ _ _ hexec =>
    cases (hexec s s.looksLike_refl).symm.trans h
    exact State.pump_phase _ (.inr rfl)
  | hunts _ _ _ hexec =>
    cases (hexec s s.looksLike_refl).symm.trans h
    exact State.pump_phase _ (.inr rfl)

/-- R240: an operation that has not ended with OK, or waits, has written neither MODE nor SREQ. -/
theorem exec_sameModeAndSreq_of_not_ok {i : Instr} {s t : State} (h : exec i s = .next t)
    (hnot : t.res.status ≠ .ok ∨ t.phase ≠ .idle) : s.sameModeAndSreq t := by
  cases execCase i s with
  | invalid _ hexec | notPopulated _ _ hexec | answered _ _ _ hexec | writeFailed _ _ _ _ _ _ hexec =>
    cases (hexec s s.looksLike_refl).symm.trans h
    exact ⟨rfl, rfl⟩
  | outOfRange _ hexec | noCommand _ _ _ _ hexec | wrongLength _ _ _ _ _ hexec =>
    cases (hexec s s.looksLike_refl).symm.trans h
  | sent _ _ _ _ _ hexec =>
    cases (hexec s s.looksLike_refl).symm.trans h
    rcases hnot with hres | hphase
    · exact absurd rfl hres
    · exact absurd rfl hphase
  | requested _ _ _ bs gone fates _ hexec =>
    cases (hexec s s.looksLike_refl).symm.trans h
    exact .trans (t := s.emitted i bs fates) ⟨rfl, rfl⟩ (State.startResp_runRx_sameModeAndSreq _ _)
  | hunts _ ids _ hexec =>
    cases (hexec s s.looksLike_refl).symm.trans h
    exact .trans (t := s.hunting ids) ⟨rfl, rfl⟩ (State.runRx_sameModeAndSreq _)

/-- Settles O22: the cache is written with OK at the end of an operation only, and so are MODE and SREQ. -/
theorem errorsLeaveRegistersAndCache : Obligations.ErrorsLeaveRegistersAndCache := by
  intro s t h hnot
  have hcache : t.cache = s.cache := by
    by_contra hne
    obtain ⟨hidle, hok⟩ := (step_keepsOrCommits h).ended_ok hne
    exact hnot.elim (fun hstatus => hstatus hok) fun hphase => hphase hidle
  have hregs : s.sameModeAndSreq t := by
    rcases step_next h with ⟨-, -, rfl⟩ | ⟨-, record, rest, -, ⟨i, left, -, hexec⟩ | ⟨sel, -, rfl⟩⟩ | ⟨-, rfl⟩
    · exact ⟨rfl, rfl⟩
    · exact exec_sameModeAndSreq_of_not_ok (s := { s with host := rest }) hexec hnot
    · exact ⟨rfl, rfl⟩
    · exact s.runRx_sameModeAndSreq
  obtain ⟨hmode, hsreq⟩ := hregs
  exact ⟨hmode, hsreq, hcache⟩

/-! ### Delivery in pieces -/

/-- What RX holds is what the operation reads; nothing else depends on it. -/
theorem State.runRx_deliver (s : State) (ys : List RxItem) : (s.deliver ys).runRx = State.pump (s.rx ++ ys) s :=
  State.pump_withRx (s.rx ++ ys) (s.rx ++ ys) s

/-- Everything an operation that answers a next state does with items that are delivered before it: it ends without
them, or it is a read, that began in a waiting state `u`, and goes on with them. -/
theorem exec_deliver {i : Instr} {s t : State} (h : exec i s = .next t) :
    (t.phase = .idle ∧ ∀ ys, exec i (s.deliver ys) = .next (t.deliver ys)) ∨
    ∃ u : State, u.cfg = s.cfg ∧ u.phase.waits = true ∧ u.cmd = ⟨i.sel, i.operands⟩ ∧ t = State.pump u.rx u ∧
      ∀ ys, exec i (s.deliver ys) = .next (State.pump (u.rx ++ ys) u) := by
  have hlike : ∀ ys, s.looksLike (s.deliver ys) := fun _ => ⟨rfl, rfl, rfl⟩
  cases execCase i s with
  | invalid _ hexec | notPopulated _ _ hexec | answered _ _ _ hexec | writeFailed _ _ _ _ _ _ hexec
  | sent _ _ _ _ _ hexec =>
    cases (hexec s s.looksLike_refl).symm.trans h
    exact .inl ⟨rfl, fun ys => hexec _ (hlike ys)⟩
  | outOfRange _ hexec | noCommand _ _ _ _ hexec | wrongLength _ _ _ _ _ hexec =>
    cases (hexec s s.looksLike_refl).symm.trans h
  | requested _ _ _ bs gone fates _ hexec =>
    cases (hexec s s.looksLike_refl).symm.trans h
    refine .inr ⟨(s.emitted i bs fates).startResp _, rfl, rfl, rfl, rfl, fun ys => ?_⟩
    rw [hexec _ (hlike ys), ← State.runRx_deliver]
    rfl
  | hunts _ ids hi hexec =>
    cases (hexec s s.looksLike_refl).symm.trans h
    refine .inr ⟨s.hunting ids, rfl, rfl, by rw [hi]; rfl, rfl, fun ys => ?_⟩
    rw [hexec _ (hlike ys), ← State.runRx_deliver]
    rfl

/-- R23: more items behind those a read was given stay on RX if it has ended, and are read on if it waits. -/
theorem State.pump_append_of_waits {u t : State} (hwaits : u.phase.waits = true) (ht : u.cfg.rxTimeout = none)
    (hpump : t = State.pump u.rx u) (ys : List RxItem) :
    (t.phase = .idle → State.pump (u.rx ++ ys) u = t.deliver ys) ∧
    (t.phase ≠ .idle → t.phase.waits = true ∧ State.pump (u.rx ++ ys) u = (t.deliver ys).runRx) := by
  have happend := State.pump_append u.rx ys ht
  rw [← hpump] at happend
  refine ⟨fun hidle => ?_, fun hbusy => ?_⟩
  · have hnot : ¬ t.phase.waits = true := by rw [hidle]; decide
    rw [if_neg hnot] at happend
    exact happend
  · have hend := State.pump_phase u.rx (.inr hwaits)
    rw [← hpump] at hend
    obtain ⟨htwaits, hrx, -⟩ := hend.resolve_left hbusy
    refine ⟨htwaits, ?_⟩
    rw [happend, if_pos htwaits, State.runRx_deliver, hrx, List.nil_append]

/-- Settles O44: reading in two pieces is reading in one, and a waiting step is reading. -/
theorem deliveryInPiecesIsTheSame : Obligations.DeliveryInPiecesIsTheSame := by
  intro i s t ys hwf ht h
  rcases exec_deliver h with ⟨hidle, hdeliver⟩ | ⟨u, hcfg, hwaits, -, hpump, hdeliver⟩
  · exact ⟨fun _ => hdeliver ys, fun hbusy => absurd hidle hbusy⟩
  · have hut : u.cfg.rxTimeout = none := hcfg ▸ ht
    obtain ⟨hended, hwaiting⟩ := State.pump_append_of_waits hwaits hut hpump ys
    refine ⟨fun hidle => (hdeliver ys).trans (congrArg _ (hended hidle)), fun hbusy => ?_⟩
    obtain ⟨htwaits, hpieces⟩ := hwaiting hbusy
    have htcfg : t.cfg = s.cfg := by
      rw [hpump, (State.pump_frame u.rx u).1, hcfg]
    have htwf : (t.deliver ys).cfg.wf = true := by rw [State.deliver_cfg, htcfg, hwf]
    rw [hdeliver, hpieces, step_of_waits htwf htwaits]

/-! ### What operations do not depend on -/

/-- Settles O55: accepting an operation overwrites CMD, PHASE and the working registers, and nothing before it consults
them. -/
theorem workingRegistersCarryNothingOver : Obligations.WorkingRegistersCarryNothingOver := by
  intro i s c p w
  have hlike : s.looksLike { s with cmd := c, phase := p, work := w } := ⟨rfl, rfl, rfl⟩
  cases execCase i s with
  | invalid _ h | outOfRange _ h | noCommand _ _ _ _ h | wrongLength _ _ _ _ _ h | notPopulated _ _ h
  | answered _ _ _ h | writeFailed _ _ _ _ _ _ h | sent _ _ _ _ _ h | requested _ _ _ _ _ _ _ h | hunts _ _ _ h =>
    exact (h _ hlike).trans (h s s.looksLike_refl).symm

/-- R11, R12, R17: other values in MODE, SREQ and RES. -/
def State.withRegs (m : OperatingMode) (ids : List Byte) (r : ResLatch) (s : State) : State :=
  { s with mode := m, sreq := ids, res := r }

@[simp] theorem State.withRegs_work (m : OperatingMode) (ids : List Byte) (r : ResLatch) (s : State) :
    (s.withRegs m ids r).work = s.work := rfl
@[simp] theorem State.withRegs_cfg (m : OperatingMode) (ids : List Byte) (r : ResLatch) (s : State) :
    (s.withRegs m ids r).cfg = s.cfg := rfl
@[simp] theorem State.withRegs_frameIds (m : OperatingMode) (ids : List Byte) (r : ResLatch) (s : State) :
    (s.withRegs m ids r).frameIds = s.frameIds := rfl

/-- `t` is `s` but for MODE, SREQ and RES, and has the RES of `s` once the operation has ended. -/
def State.sameButRegs (s t : State) : Prop :=
  ∃ m ids r, t = s.withRegs m ids r ∧ (s.phase = .idle → r = s.res)

/-- An operation that has not ended has no RES of its own. -/
theorem State.sameButRegs_of_busy {s : State} (h : s.phase ≠ .idle) (m : OperatingMode) (ids : List Byte)
    (r : ResLatch) : s.sameButRegs (s.withRegs m ids r) :=
  ⟨m, ids, r, rfl, fun hidle => absurd hidle h⟩

theorem State.sameButRegs_raise (s : State) (m : OperatingMode) (ids : List Byte) (r : ResLatch) (status : Status)
    (sub : SubCause) : (s.raise status sub).sameButRegs ((s.withRegs m ids r).raise status sub) :=
  ⟨m, ids, _, rfl, fun _ => rfl⟩

theorem State.sameButRegs_commitStage (s : State) (m : OperatingMode) (ids : List Byte) (r : ResLatch) :
    s.commitStage.sameButRegs (s.withRegs m ids r).commitStage :=
  ⟨m, ids, _, rfl, fun _ => rfl⟩

theorem State.sameButRegs_settle {s t : State} (h : s.sameButRegs t) : s.settle.sameButRegs t.settle := by
  obtain ⟨m, ids, r, rfl, hr⟩ := h
  cases hphase : s.phase with
  | hunt =>
    rw [State.settle_hunt hphase, State.settle_hunt (s := s.withRegs m ids r) hphase, State.withRegs_work]
    split_ifs
    · exact s.sameButRegs_raise m ids r _ _
    · exact ⟨m, ids, r, rfl, hr⟩
  | resp =>
    rw [State.settle_resp hphase, State.settle_resp (s := s.withRegs m ids r) hphase, State.withRegs_work]
    split_ifs
    · exact s.sameButRegs_commitStage m ids r
    · exact ⟨m, ids, r, rfl, hr⟩
  | _ =>
    have hhunt : s.phase ≠ .hunt := by simp [hphase]
    have hresp : s.phase ≠ .resp := by simp [hphase]
    rw [State.settle_eq_self hhunt hresp, State.settle_eq_self (s := s.withRegs m ids r) hhunt hresp]
    exact ⟨m, ids, r, rfl, hr⟩

theorem State.sameButRegs_onItem (item : RxItem) {s t : State} (h : s.sameButRegs t) (hwaits : s.phase.waits = true) :
    (s.onItem item).sameButRegs (t.onItem item) := by
  obtain ⟨m, ids, r, rfl, -⟩ := h
  have hbusy : s.phase ≠ .idle := fun hidle => by rw [hidle] at hwaits; cases hwaits
  cases item with
  | fail => exact s.sameButRegs_raise m ids r _ _
  | byte b =>
    cases hphase : s.phase with
    | resp =>
      rw [State.onItem_resp hphase, State.onItem_resp (s := s.withRegs m ids r) hphase]
      exact State.sameButRegs_of_busy (s := s.onResp b) hbusy m ids r
    | hunt =>
      rw [State.onItem_hunt hphase, State.onItem_hunt (s := s.withRegs m ids r) hphase, State.onHunt, State.onHunt]
      split_ifs
      · exact ⟨m, ids, r, rfl, nofun⟩
      · exact ⟨m, ids, r, rfl, fun hidle => absurd hidle hbusy⟩
    | flen =>
      rw [State.onItem_flen hphase, State.onItem_flen (s := s.withRegs m ids r) hphase, State.onFlen, State.onFlen,
        State.withRegs_work, State.withRegs_frameIds]
      split_ifs
      · exact ⟨m, ids, r, rfl, nofun⟩
      · exact ⟨m, ids, r, rfl, nofun⟩
      · exact s.sameButRegs_raise m ids r _ _
    | pid =>
      rw [State.onItem_pid hphase, State.onItem_pid (s := s.withRegs m ids r) hphase, State.onPid, State.onPid,
        State.withRegs_work, State.withRegs_frameIds]
      cases s.frameIds[s.work.idx]? with
      | none => exact s.sameButRegs_raise m ids r _ _
      | some want =>
        simp only
        split_ifs
        · exact ⟨m, ids, r, rfl, nofun⟩
        · exact s.sameButRegs_raise m ids r _ _
    | pdata =>
      rw [State.onItem_pdata hphase, State.onItem_pdata (s := s.withRegs m ids r) hphase, State.onPdata, State.onPdata,
        State.withRegs_work, State.withRegs_frameIds]
      split_ifs
      · exact ⟨m, ids, r, rfl, nofun⟩
      · exact ⟨m, ids, r, rfl, nofun⟩
      · exact ⟨m, ids, r, rfl, fun hidle => absurd hidle hbusy⟩
    | fchk =>
      rw [State.onItem_fchk hphase, State.onItem_fchk (s := s.withRegs m ids r) hphase, State.onFchk, State.onFchk,
        State.withRegs_work]
      split_ifs
      · exact s.sameButRegs_commitStage m ids r
      · exact s.sameButRegs_raise m ids r _ _
    | idle | check | emit | commit =>
      rw [hphase] at hwaits
      cases hwaits

/-- What RX makes of a block does not depend on MODE, SREQ and RES. -/
theorem State.sameButRegs_pump (items : List RxItem) {s t : State} (h : s.sameButRegs t) :
    (State.pump items s).sameButRegs (State.pump items t) := by
  refine pump_rel (R := State.sameButRegs) ?_ (fun _ _ => State.sameButRegs_settle)
    (fun item _ _ => State.sameButRegs_onItem item) ?_ ?_ items h
  · rintro s t ⟨m, ids, r, rfl, -⟩
    rfl
  · rintro s t ⟨m, ids, r, rfl, hr⟩ -
    rw [State.rxExhausted, State.rxExhausted, State.withRegs_cfg]
    cases s.cfg.rxTimeout with
    | none => exact ⟨m, ids, r, rfl, hr⟩
    | some bound => exact ⟨m, ids, _, rfl, fun _ => rfl⟩
  · rintro rx s t ⟨m, ids, r, rfl, hr⟩
    exact ⟨m, ids, r, rfl, hr⟩

/-- States that differ in MODE, SREQ and RES alone are the same to an operation that writes neither register. -/
theorem State.sameButRegs.effectOf {i : Instr} {s t : State} (h : s.sameButRegs t) (hmode : i.setsMode = false)
    (hsreq : i.setsSreq = false) : t.effectOf i = s.effectOf i := by
  obtain ⟨m, ids, r, rfl, hr⟩ := h
  unfold State.effectOf State.withRegs
  simp only [hmode, hsreq, Bool.false_eq_true, false_and, if_false]
  by_cases hidle : s.phase = .idle
  · rw [hr hidle]
  · simp only [hidle, if_false]

/-- R11, R12: an operation that sends nothing writes neither MODE nor SREQ. -/
theorem setsNoReg_of_local {i : Instr} (h : i.isWire = false) : i.setsMode = false ∧ i.setsSreq = false := by
  rw [isWire_eq_not_isLocal] at h
  cases i with
  | modePassive | modeSafe | modeFull | modeOff | streamStart => cases h
  | _ => exact ⟨rfl, rfl⟩

theorem setsNoReg_of_readsSensors {i : Instr} (h : i.readsSensors = true) :
    i.setsMode = false ∧ i.setsSreq = false := by
  cases i with
  | readPacket | readPacketList | readFrame => exact ⟨rfl, rfl⟩
  | _ => cases h

/-- R239: an operation that ends with an error has written neither register. -/
theorem State.effectOf_concluded_error {i : Instr} {r : ResLatch} (hr : r.status ≠ .ok) (s : State) (m : OperatingMode)
    (ids : List Byte) (old : ResLatch) :
    ((s.withRegs m ids old).concluded i r).effectOf i = (s.concluded i r).effectOf i := by
  simp [State.effectOf, State.concluded, State.withRegs, hr]

/-- R110, R151: a command that is sent leaves its own MODE and SREQ behind, where it writes them. -/
theorem State.effectOf_recorded (i : Instr) (s : State) (m : OperatingMode) (ids : List Byte) (old : ResLatch) :
    ((s.withRegs m ids old).recorded i).effectOf i = (s.recorded i).effectOf i := by
  have hmode : (if i.setsMode = true then modeAfter i m else .off) =
      if i.setsMode = true then modeAfter i s.mode else .off := by
    split
    · next h => exact modeAfter_of_setsMode h _ _
    · rfl
  have hsreq : (if i.setsSreq = true then sreqAfter i ids else []) =
      if i.setsSreq = true then sreqAfter i s.sreq else [] := by
    split
    · next h => exact sreqAfter_of_setsSreq h _ _
    · rfl
  simp [State.effectOf, State.recorded, State.finish, State.withRegs, hmode, hsreq]

/-- Settles O54, by the cases of what an operation can do; a read is the same in both states, item by item. -/
theorem modeSreqAndResultAreNeverRead : Obligations.ModeSreqAndResultAreNeverRead := by
  intro i s m ids r
  have hlike : s.looksLike { s with mode := m, sreq := ids, res := r } := ⟨rfl, rfl, rfl⟩
  cases execCase i s with
  | invalid _ h | notPopulated _ _ h =>
    rw [h _ hlike, h s s.looksLike_refl]
    exact congrArg Host.Outcome.next (State.effectOf_concluded_error (by decide) s m ids r)
  | answered _ hlocal data h =>
    obtain ⟨hmode, hsreq⟩ := setsNoReg_of_local hlocal
    rw [h _ hlike, h s s.looksLike_refl]
    refine congrArg Host.Outcome.next (State.sameButRegs.effectOf ?_ hmode hsreq)
    exact ⟨m, ids, _, rfl, fun _ => rfl⟩
  | outOfRange _ h | noCommand _ _ _ _ h | wrongLength _ _ _ _ _ h => rw [h _ hlike, h s s.looksLike_refl]
  | writeFailed _ _ bs gone fates _ h =>
    rw [h _ hlike, h s s.looksLike_refl]
    exact congrArg Host.Outcome.next
      (State.effectOf_concluded_error (by decide) { s with txLog := s.txLog ++ bs, txFates := fates } m ids r)
  | sent _ bs gone fates _ h =>
    rw [h _ hlike, h s s.looksLike_refl]
    exact congrArg Host.Outcome.next (State.effectOf_recorded i (s.emitted i bs fates) m ids r)
  | requested _ _ hreads bs gone fates _ h =>
    obtain ⟨hmode, hsreq⟩ := setsNoReg_of_readsSensors hreads
    rw [h _ hlike, h s s.looksLike_refl]
    refine congrArg Host.Outcome.next (State.sameButRegs.effectOf (State.sameButRegs_pump _ ?_) hmode hsreq)
    exact ⟨m, ids, r, rfl, nofun⟩
  | hunts _ frameIds hi h =>
    rw [h _ hlike, h s s.looksLike_refl]
    refine congrArg Host.Outcome.next (State.sameButRegs.effectOf (State.sameButRegs_pump _ ?_) ?_ ?_)
    · exact ⟨m, ids, r, rfl, nofun⟩
    · rw [hi]; rfl
    · rw [hi]; rfl

end Sys2Proof.Machine

/-! PROOFS. The single-shot reads (R135 to R141): a response that comes whole, one that stops short, one that fails; for
READ_PACKET and READ_PACKET_LIST at once, as the request of a list of ids. -/
namespace Sys2Proof.Machine

/-! ### A response, byte by byte -/

section
variable {s : State}

/-- R138: every response byte is staged. -/
theorem State.onResp_stage (b : Byte) : (s.onResp b).work.stage = s.work.stage ++ [b] := by
  unfold State.onResp
  split_ifs <;> rfl

theorem State.onResp_goesOn (b : Byte) : s.goesOn (s.onResp b) := by
  refine ⟨_, _, rfl, ?_⟩
  split_ifs <;> rfl

/-- R138: with bytes still to come, the block is inside a packet. -/
theorem State.respFits.workFits (h : s.respFits) (hphase : s.phase = .resp)
    (hshort : s.work.stage.length < sumLen s.cfg.catalogue s.work.alist) : s.workFits := by
  obtain ⟨hatoms, hinside | ⟨-, hdone⟩⟩ := h
  · rw [State.workFits, hphase]
    exact ⟨hatoms, hinside⟩
  · omega

/-- With bytes still to come there is nothing to settle. -/
theorem State.respFits.settle_short (h : s.respFits) (hphase : s.phase = .resp)
    (hshort : s.work.stage.length < sumLen s.cfg.catalogue s.work.alist) : s.settle = s := by
  have hwork := h.workFits hphase hshort
  rw [State.workFits, hphase] at hwork
  obtain ⟨-, hidx, -⟩ := hwork
  rw [State.settle_resp hphase, if_neg (Nat.not_le.2 hidx)]

/-- R136: with all bytes staged the response is committed. -/
theorem State.respFits.settle_complete (h : s.respFits) (hphase : s.phase = .resp)
    (hall : s.work.stage.length = sumLen s.cfg.catalogue s.work.alist) : s.settle = s.commitStage := by
  obtain ⟨-, ⟨-, hpos, -, hstage⟩ | ⟨hdone, -⟩⟩ := h
  · have hle := sumLen_take_le s.cfg.catalogue s.work.alist (s.work.idx + 1)
    omega
  · rw [State.settle_resp hphase, if_pos hdone]

/-- R138: the block stages the bytes of a response as long as the packets have more. -/
theorem reads_resp (hc : catalogueWf s.cfg.catalogue = true) (hphase : s.phase = .resp) (hfits : s.respFits)
    {xs : List Byte} (hlen : s.work.stage.length + xs.length ≤ sumLen s.cfg.catalogue s.work.alist) :
    ∃ u, s.goesOn u ∧ Reads xs s u ∧ u.phase = .resp ∧ u.respFits ∧ u.work.stage = s.work.stage ++ xs := by
  induction xs generalizing s with
  | nil => exact ⟨s, s.goesOn_refl, reads_nil s, hphase, hfits, (List.append_nil _).symm⟩
  | cons x xs ih =>
    rw [List.length_cons] at hlen
    have hshort : s.work.stage.length < sumLen s.cfg.catalogue s.work.alist := by omega
    have hsettled := hfits.settle_short hphase hshort
    have hbyte : Reads [x] s (s.onResp x) := by
      rw [← State.onItem_resp hphase]
      exact reads_byte hsettled (by rw [hphase]; rfl) x
    have hfits' := State.onResp_fits hc hphase (hfits.workFits hphase hshort) x
    have hgoes := s.onResp_goesOn x
    obtain ⟨u, hgoes', hreads, hphase', hfitsu, hstage⟩ := ih (s := s.onResp x) hc hphase hfits' (by
      rw [State.onResp_stage, hgoes.alist, hgoes.cfg, List.length_append, List.length_singleton]
      omega)
    refine ⟨u, hgoes.trans hgoes', hbyte.append hreads, hphase', hfitsu, ?_⟩
    rw [hstage, State.onResp_stage, List.append_assoc]
    rfl

variable (hc : catalogueWf s.cfg.catalogue = true) (hphase : s.phase = .resp) (hfits : s.respFits)
  (hstart : s.work.stage = [])
include hc hphase hfits hstart

/-- R136: a response that comes whole is committed and returned, and what follows it stays on RX. -/
theorem pump_resp_complete {bs : List Byte} (hlen : bs.length = sumLen s.cfg.catalogue s.work.alist)
    (items : List RxItem) :
    State.pump (rxBytes bs ++ items) s =
      (State.finish (.bytes bs)
        { s with cache := Memory.commit s.cfg.catalogue s.work.alist bs s.cache }).withRx items := by
  obtain ⟨u, hgoes, hreads, hphase', hfits', hstage⟩ := reads_resp hc hphase hfits (xs := bs) (by simp [hstart, hlen])
  rw [hstart, List.nil_append] at hstage
  have hall : u.work.stage.length = sumLen u.cfg.catalogue u.work.alist := by
    rw [hstage, hgoes.cfg, hgoes.alist, hlen]
  have hsettle := hfits'.settle_complete hphase' hall
  rw [hreads.pump_of_idle (by rw [hsettle]; rfl), hsettle]
  obtain ⟨p, w, rfl, halist⟩ := hgoes
  simp only at hstage
  simp only [State.commitStage, hstage, halist]
  rfl

/-- R138: a response that stops short leaves the block waiting in RESP with the bytes staged. -/
theorem waitsAfter_resp_short {bs : List Byte} (hlen : bs.length < sumLen s.cfg.catalogue s.work.alist) :
    ∃ u, WaitsAfter (rxBytes bs) s u ∧ u.phase = .resp ∧ u.work.stage = bs := by
  obtain ⟨u, hgoes, hreads, hphase', hfits', hstage⟩ :=
    reads_resp hc hphase hfits (xs := bs) (by simp [hstart, hlen.le])
  rw [hstart, List.nil_append] at hstage
  have hshort : u.work.stage.length < sumLen u.cfg.catalogue u.work.alist := by
    rw [hstage, hgoes.cfg, hgoes.alist]
    exact hlen
  exact ⟨u, ⟨by rw [hphase']; rfl, hfits'.settle_short hphase' hshort, hgoes, hreads⟩, hphase', hstage⟩

end

/-! ### A request -/

/-- R135: `i` requests known ids, its command is `cmd`, and the transport takes it. -/
structure Requests (i : Instr) (s : State) (cmd : List Byte) : Prop where
  wf : s.cfg.wf = true
  isLocal : isLocal i = false
  readsSensors : i.readsSensors = true
  accepts : s.accepts i = true
  inRange : i.operands.all Operand.inRange = true
  command : commandBytes s.cfg.cmdtab i = some cmd
  writesOk : s.writesOk cmd.length

theorem requests_readPacket {s : State} {id : Byte} (hwf : s.cfg.wf = true) (htab : s.cfg.cmdtab = defaultCmdTab)
    (hid : inCatalogue s.cfg.catalogue id = true) (hw : s.writesOk 2) : Requests (.readPacket id) s [142#8, id] :=
  ⟨hwf, rfl, rfl, hid, rfl, htab ▸ commandBytes_readPacket id, hw⟩

theorem requests_readPacketList {s : State} {ids : List Byte} (hwf : s.cfg.wf = true)
    (htab : s.cfg.cmdtab = defaultCmdTab) (hids : ids.all (inCatalogue s.cfg.catalogue) = true)
    (hw : s.writesOk (2 + ids.length)) :
    Requests (.readPacketList ids) s ([149#8, BitVec.ofNat 8 ids.length] ++ ids) := by
  have hcmd := commandBytes_readPacketList ids
  exact ⟨hwf, rfl, rfl, hids, rfl, htab ▸ hcmd, hw.of_commandBytes hcmd (commandLengths _)⟩

/-- R136, R137: the state after a request whose response `bs` came whole, with `rest` behind it. -/
def State.responded (i : Instr) (cmd bs : List Byte) (rest : List RxItem) (s : State) : State :=
  { s.sent cmd with
    rx := rest
    cache := Memory.commit s.cfg.catalogue (expandList s.cfg.catalogue (requestedIds i)) bs s.cache }.ended i
      (.bytes bs)

/-- The state in which the response to a request begins. -/
def State.awaits (i : Instr) (cmd : List Byte) (s : State) : State :=
  (s.emitted i cmd (s.txFates.drop cmd.length)).startResp (expandList s.cfg.catalogue (requestedIds i))

section
variable {i : Instr} {s : State} {cmd bs : List Byte} (h : Requests i s cmd)
include h

/-- R135: a request is its command, and then what RX makes of its response. -/
theorem Requests.exec_eq : exec i s = .next (State.pump s.rx (s.awaits i cmd)) := by
  have hwire : i.isWire = true := by rw [isWire_eq_not_isLocal, h.isLocal]; rfl
  rw [exec_request hwire h.readsSensors, h.accepts, emitThen_ok h.inRange h.command h.writesOk]
  rfl

theorem Requests.catalogueWf : catalogueWf (s.awaits i cmd).cfg.catalogue = true := by
  obtain ⟨hc, -⟩ := Config.wf_parts h.wf
  exact hc

theorem Requests.respFits : (s.awaits i cmd).respFits :=
  State.startResp_fits (s := s.emitted i cmd (s.txFates.drop cmd.length)) h.catalogueWf _

/-- R136, R137: a response that comes whole. -/
theorem Requests.completes {rest : List RxItem} (hrx : s.rx = rxBytes bs ++ rest)
    (hlen : bs.length = totalLen s.cfg.catalogue (requestedIds i)) :
    EndsIn (exec i s) (s.responded i cmd bs rest) := by
  rw [h.exec_eq, hrx, pump_resp_complete h.catalogueWf rfl h.respFits rfl hlen]
  exact ⟨Work.cleared, rfl⟩

variable (hlen : bs.length < totalLen s.cfg.catalogue (requestedIds i))
include hlen

theorem Requests.waitsAfter :
    ∃ u, WaitsAfter (rxBytes bs) (s.awaits i cmd) u ∧ u.phase = .resp ∧ u.work.stage = bs :=
  waitsAfter_resp_short h.catalogueWf rfl h.respFits rfl hlen

/-- R23, R138: a response that stops short, without a time-out. -/
theorem Requests.waits (hrx : s.rx = rxBytes bs) (ht : s.cfg.rxTimeout = none) :
    ∃ t, exec i s = .next t ∧ t.phase = .resp ∧ t.work.stage = bs ∧ t.rx = [] ∧ t.cache = s.cache ∧ t.res = s.res ∧
      t.txLog = s.txLog ++ cmd := by
  obtain ⟨u, hu, hphase, hstage⟩ := h.waitsAfter hlen
  refine ⟨u.withRx [], ?_, hphase, hstage, rfl, ?_⟩
  · rw [h.exec_eq, hrx, hu.pump_eq_withRx ht]
  · obtain ⟨p, w, rfl, -⟩ := hu.goesOn
    exact ⟨rfl, rfl, rfl⟩

/-- R23, R233: a response that stops short, with a time-out. -/
theorem Requests.timesOut (hrx : s.rx = rxBytes bs) (ht : s.cfg.rxTimeout.isSome = true) :
    EndsIn (exec i s) ({ s.sent cmd with rx := [] }.failed i .transportFailure .none) := by
  obtain ⟨u, hu, -, -⟩ := h.waitsAfter hlen
  rw [h.exec_eq, hrx, hu.pump_timeout ht]
  obtain ⟨p, w, rfl, -⟩ := hu.goesOn
  exact ⟨Work.cleared, rfl⟩

/-- R141, R233: a response of which a byte fails. -/
theorem Requests.fails {rest : List RxItem} (hrx : s.rx = rxBytes bs ++ .fail :: rest) :
    EndsIn (exec i s) ({ s.sent cmd with rx := rest }.failed i .transportFailure .none) := by
  obtain ⟨u, hu, -, -⟩ := h.waitsAfter hlen
  rw [h.exec_eq, hrx, hu.pump_fail]
  obtain ⟨p, w, rfl, -⟩ := hu.goesOn
  exact ⟨Work.cleared, rfl⟩

end

/-- Settles O29: READ_PACKET is the request of one id. -/
theorem readPacketCompletes : Obligations.ReadPacketCompletes := by
  intro s id bs rest hwf htab hid hw hrx hlen
  obtain ⟨hc, -⟩ := Config.wf_parts hwf
  have hends := (requests_readPacket hwf htab hid hw).completes hrx (hlen.trans (totalLen_singleton_eq hc hid).symm)
  rwa [State.responded, requestedIds, expandList_singleton] at hends

/-- Settles O30: READ_PACKET_LIST is the request of its list. -/
theorem readPacketListCompletes : Obligations.ReadPacketListCompletes := by
  intro s ids bs rest hwf htab hids hw hrx hlen
  exact (requests_readPacketList hwf htab hids hw).completes hrx hlen

/-! ### Lists and single reads -/

/-- What stands on RX, up to `n` bytes: they are all there, or it ends or fails before. -/
theorem rx_split (items : List RxItem) (n : Nat) :
    ∃ bs, (bs.length = n ∧ ∃ rest, items = rxBytes bs ++ rest) ∨
      (bs.length < n ∧ (items = rxBytes bs ∨ ∃ rest, items = rxBytes bs ++ .fail :: rest)) := by
  induction n generalizing items with
  | zero => exact ⟨[], .inl ⟨rfl, items, rfl⟩⟩
  | succ n ih =>
    cases items with
    | nil => exact ⟨[], .inr ⟨Nat.succ_pos n, .inl rfl⟩⟩
    | cons item items =>
      cases item with
      | fail => exact ⟨[], .inr ⟨Nat.succ_pos n, .inr ⟨items, rfl⟩⟩⟩
      | byte b =>
        obtain ⟨bs, ⟨hlen, rest, rfl⟩ | ⟨hlen, rfl | ⟨rest, rfl⟩⟩⟩ := ih items
        · exact ⟨b :: bs, .inl ⟨congrArg (· + 1) hlen, rest, rfl⟩⟩
        · exact ⟨b :: bs, .inr ⟨Nat.succ_lt_succ hlen, .inl rfl⟩⟩
        · exact ⟨b :: bs, .inr ⟨Nat.succ_lt_succ hlen, .inr ⟨rest, rfl⟩⟩⟩

/-- R136, R137: conversely, a request that ends with OK has found its whole response on RX. -/
theorem Requests.of_ok {i : Instr} {s t : State} {cmd : List Byte} (h : Requests i s cmd) (hexec : exec i s = .next t)
    (hidle : t.phase = .idle) (hok : t.res.status = .ok) :
    ∃ bs rest, s.rx = rxBytes bs ++ rest ∧ bs.length = totalLen s.cfg.catalogue (requestedIds i) ∧
      ∃ w : Work, t = { s.responded i cmd bs rest with work := w } := by
  obtain ⟨bs, ⟨hlen, rest, hrx⟩ | ⟨hlen, hrx | ⟨rest, hrx⟩⟩⟩ :=
    rx_split s.rx (totalLen s.cfg.catalogue (requestedIds i))
  · obtain ⟨w, hw⟩ := h.completes hrx hlen
    rw [hexec] at hw
    cases hw
    exact ⟨bs, rest, hrx, hlen, w, rfl⟩
  · cases ht : s.cfg.rxTimeout with
    | none =>
      obtain ⟨u, hu, hphase, -⟩ := h.waits hlen hrx ht
      cases hexec.symm.trans hu
      cases hidle.symm.trans hphase
    | some bound =>
      obtain ⟨w, hw⟩ := h.timesOut hlen hrx (by rw [ht]; rfl)
      cases hexec.symm.trans hw
      cases hok
  · obtain ⟨w, hw⟩ := h.fails hlen hrx
    cases hexec.symm.trans hw
    cases hok

/-- R136: a READ_PACKET that ends with OK was of a known id. -/
theorem known_of_readPacket_ok {s t : State} {id : Byte} (hexec : exec (.readPacket id) s = .next t)
    (hidle : t.phase = .idle) (hok : t.res.status = .ok) : inCatalogue s.cfg.catalogue id = true := by
  obtain ⟨hinvalid, -⟩ := exec_endsProperly hexec hidle
  cases hacc : s.accepts (.readPacket id) with
  | true => exact hacc
  | false => cases hok.symm.trans (hinvalid.2 hacc)

theorem State.writesOk.mono {s : State} {m n : Nat} (h : s.writesOk n) (hle : m ≤ n) : s.writesOk m := fun f hf =>
  h f ((List.take_prefix_take_left hle).subset hf)

theorem rxBytes_append (xs ys : List Byte) : rxBytes (xs ++ ys) = rxBytes xs ++ rxBytes ys := List.map_append

theorem State.writesOk.drop {s t : State} {k n : Nat} (h : s.writesOk (k + n)) (ht : t.txFates = s.txFates.drop k) :
    t.writesOk n := fun f hf => by
  rw [ht, List.take_drop] at hf
  exact h f (List.mem_of_mem_drop hf)

/-- R46: a commit takes no more bytes than its packets have. -/
theorem Memory.commit_append_stage (c : Catalogue) {atoms stage : List Byte} (hlen : sumLen c atoms ≤ stage.length)
    (more : List Byte) (m : Memory) :
    Memory.commit c atoms (stage ++ more) m = Memory.commit c atoms stage m := by
  induction atoms generalizing stage m with
  | nil => rfl
  | cons a as ih =>
    rw [sumLen_cons] at hlen
    have hfirst : byteLength c a ≤ stage.length := by omega
    rw [Memory.commit, Memory.commit, List.take_append_of_le_length hfirst, List.drop_append_of_le_length hfirst,
      ih (by rw [List.length_drop]; omega)]

/-- R140: two requests one after the other commit what the request of both commits. -/
theorem commit_requests (c : Catalogue) {a b : Byte} {as bs : List Byte} (m : Memory)
    (hlen : as.length = totalLen c [a]) :
    Memory.commit c (expandList c [a, b]) (as ++ bs) m =
      Memory.commit c (expandList c [b]) bs (Memory.commit c (expandList c [a]) as m) := by
  have hsplit : expandList c [a, b] = expandList c [a] ++ expandList c [b] := expandList_append c [a] [b]
  have hsum : sumLen c (expandList c [a]) = as.length := hlen.symm
  rw [hsplit, Memory.commit_append, hsum, List.drop_left]
  exact congrArg _ (Memory.commit_append_stage c hsum.le bs m)

/-- R140: two READ_PACKETs that end with OK are one READ_PACKET_LIST, but for the bytes sent. -/
theorem readPacket_readPacket {s t u : State} {a b : Byte} {as bs : List Byte} (hwf : s.cfg.wf = true)
    (htab : s.cfg.cmdtab = defaultCmdTab) (hw : s.writesOk 4) (ha : exec (.readPacket a) s = .next t)
    (hta : t.phase = .idle) (hra : t.res = ⟨.ok, .none, .bytes as⟩) (hb : exec (.readPacket b) t = .next u)
    (htb : u.phase = .idle) (hrb : u.res = ⟨.ok, .none, .bytes bs⟩) :
    u.txLog = s.txLog ++ [142#8, a, 142#8, b] ∧
    EndsIn (exec (.readPacketList [a, b]) s)
      ({ u with txLog := s.txLog ++ [149#8, 2#8, a, b] }.ended (.readPacketList [a, b]) (.bytes (as ++ bs))) := by
  have hoka : t.res.status = .ok := congrArg ResLatch.status hra
  have hokb : u.res.status = .ok := congrArg ResLatch.status hrb
  have hida := known_of_readPacket_ok ha hta hoka
  have hidb := known_of_readPacket_ok hb htb hokb
  obtain ⟨as', rest, hrx, hlen, w, rfl⟩ :=
    (requests_readPacket hwf htab hida (hw.mono (by norm_num))).of_ok ha hta hoka
  obtain ⟨bs', rest', hrx', hlen', w', rfl⟩ :=
    (requests_readPacket (s := { s.responded _ _ as' rest with work := w }) hwf htab hidb
      (hw.drop (k := 2) rfl)).of_ok hb htb hokb
  cases hra
  cases hrb
  have hids : [a, b].all (inCatalogue s.cfg.catalogue) = true := by
    rw [List.all_cons, List.all_cons, hida, show inCatalogue s.cfg.catalogue b = true from hidb]
    rfl
  have hall : s.rx = rxBytes (as ++ bs) ++ rest' := by
    rw [hrx, rxBytes_append, List.append_assoc]
    exact congrArg _ hrx'
  have htotal : (as ++ bs).length = totalLen s.cfg.catalogue [a, b] := by
    rw [List.length_append, hlen, hlen', totalLen_cons]
    rfl
  obtain ⟨v, hv⟩ := (requests_readPacketList hwf htab hids hw).completes hall htotal
  refine ⟨List.append_assoc _ _ _, v, hv.trans (congrArg _ ?_)⟩
  have hcache := commit_requests s.cfg.catalogue (b := b) (bs := bs) s.cache hlen
  have hfates : s.txFates.drop ([149#8, BitVec.ofNat 8 [a, b].length] ++ [a, b]).length =
      (s.txFates.drop [142#8, a].length).drop [142#8, b].length := by
    rw [List.drop_drop]
    rfl
  simp only [State.responded, requestedIds, hcache, State.ended, State.sent, hfates]
  rfl

/-- R123: the ids of a group's range, as a list to be read. -/
def memberIds (first last : Nat) : List Byte := (rangeIds first last).map (BitVec.ofNat 8)

/-- R140: a READ_PACKET of a group that ends with OK is the READ_PACKET_LIST of its members, but for the bytes sent. -/
theorem readPacket_group {s t : State} {g : Byte} {d : Descriptor} {first last : Nat} (hwf : s.cfg.wf = true)
    (htab : s.cfg.cmdtab = defaultCmdTab) (hd : descriptor s.cfg.catalogue g.toNat = some d)
    (hg : d.groupRange = some (first, last)) (hw : s.writesOk (2 + (memberIds first last).length))
    (hexec : exec (.readPacket g) s = .next t) (hidle : t.phase = .idle) (hok : t.res.status = .ok) :
    t.txLog = s.txLog ++ [142#8, g] ∧
    EndsIn (exec (.readPacketList (memberIds first last)) s) ({ t with
        txLog := s.txLog ++ ([149#8, BitVec.ofNat 8 (memberIds first last).length] ++ memberIds first last)
        txFates := s.txFates.drop (2 + (memberIds first last).length) }.ended
          (.readPacketList (memberIds first last)) t.res.data) := by
  obtain ⟨hc, -⟩ := Config.wf_parts hwf
  have hidg := known_of_readPacket_ok hexec hidle hok
  have hknown : (memberIds first last).all (inCatalogue s.cfg.catalogue) = true := by
    rw [List.all_eq_true]
    intro id hid
    obtain ⟨m, hm, rfl⟩ := List.mem_map.1 hid
    exact (member_inCatalogue hc hd hg hm).2
  have hexpand : expandList s.cfg.catalogue (memberIds first last) = expandList s.cfg.catalogue [g] := by
    rw [expandList_singleton, expand_group hc hd hg, memberIds, expandList, List.flatMap_map]
  obtain ⟨bs, rest, hrx, hlen, w, rfl⟩ :=
    (requests_readPacket hwf htab hidg (hw.mono (Nat.le_add_right 2 _))).of_ok hexec hidle hok
  have htotal : bs.length = totalLen s.cfg.catalogue (memberIds first last) := by
    rw [totalLen, hexpand]
    exact hlen
  obtain ⟨v, hv⟩ := (requests_readPacketList hwf htab hknown hw).completes hrx htotal
  refine ⟨rfl, v, hv.trans (congrArg _ ?_)⟩
  have hbytes : ([149#8, BitVec.ofNat 8 (memberIds first last).length] ++ memberIds first last).length =
      2 + (memberIds first last).length := List.length_append
  simp only [State.responded, requestedIds, hexpand, State.ended, State.sent, hbytes]

/-- Settles O31: a request that ended with OK found its response on RX, and the list's response is the same bytes. -/
theorem listReadsAgreeWithSingleReads : Obligations.ListReadsAgreeWithSingleReads := by
  refine ⟨fun _ _ _ _ _ _ _ hwf htab hw ha hta hra hb htb hrb =>
    readPacket_readPacket hwf htab hw ha hta hra hb htb hrb,
    fun s t g d first last hwf htab hd hg hw hexec hidle hok => ?_⟩
  have hlength : (memberIds first last).length = (rangeIds first last).length := List.length_map _
  have hgroup := readPacket_group hwf htab hd hg (hlength.symm ▸ hw) hexec hidle hok
  rw [hlength, ← List.append_assoc] at hgroup
  exact hgroup

end Sys2Proof.Machine

/-! PROOFS. READ_FRAME (R150 to R168): the hunt, the frame unit by unit, its checksum, and what ends a frame early. -/
namespace Sys2Proof.Machine

/-! ### The hunt -/

/-- R83, R159: a running checksum after more bytes. -/
def sumFrom (chk : Byte) (bs : List Byte) : Byte := bs.foldl (fun c b => c + b) chk

theorem sumFrom_append (chk : Byte) (xs ys : List Byte) : sumFrom chk (xs ++ ys) = sumFrom (sumFrom chk xs) ys :=
  List.foldl_append

/-- R155: `n` more bytes discarded. -/
def State.discarded (n : Nat) (s : State) : State := { s with work := { s.work with disc := s.work.disc + n } }

theorem State.discarded_discarded (m n : Nat) (s : State) : (s.discarded m).discarded n = s.discarded (m + n) := by
  simp only [State.discarded, Nat.add_assoc]

theorem State.discarded_goesOn (n : Nat) (s : State) : s.goesOn (s.discarded n) := ⟨_, _, rfl, rfl⟩

section
variable {s : State}

/-- R155: within the budget there is nothing to settle. -/
theorem State.settle_hunting (hphase : s.phase = .hunt) (hdisc : s.work.disc < s.work.total) : s.settle = s := by
  rw [State.settle_hunt hphase, if_neg hdisc.ne]

/-- R155: the hunt discards every byte that is no header, up to its budget. -/
theorem reads_garbage (hphase : s.phase = .hunt) {garbage : List Byte} (hno : header ∉ garbage)
    (hbudget : s.work.disc + garbage.length ≤ s.work.total) : Reads garbage s (s.discarded garbage.length) := by
  induction garbage generalizing s with
  | nil => exact reads_nil s
  | cons g gs ih =>
    rw [List.length_cons] at hbudget
    rw [List.mem_cons, not_or] at hno
    obtain ⟨hg, hgs⟩ := hno
    have hbyte : Reads [g] s (s.discarded 1) := by
      have hitem : s.onItem (.byte g) = s.discarded 1 := by
        rw [State.onItem_hunt hphase, State.onHunt, if_neg (Ne.symm hg)]
        rfl
      rw [← hitem]
      exact reads_byte (State.settle_hunting hphase (by omega)) (by rw [hphase]; rfl) g
    have hrest : Reads gs (s.discarded 1) ((s.discarded 1).discarded gs.length) :=
      ih (s := s.discarded 1) hphase hgs (by simp only [State.discarded]; omega)
    rw [State.discarded_discarded, Nat.add_comm] at hrest
    exact hbyte.append hrest

/-- R155: the header ends the hunt. -/
theorem reads_header (hphase : s.phase = .hunt) (hdisc : s.work.disc < s.work.total) :
    ∃ u, s.goesOn u ∧ Reads [header] s u ∧ u.phase = .flen ∧ u.work.total = s.work.total ∧ u.work.chk = header := by
  have hbyte := reads_byte (State.settle_hunting hphase hdisc) (by rw [hphase]; rfl) header
  rw [State.onItem_hunt hphase, State.onHunt, if_pos rfl] at hbyte
  refine ⟨_, ?_, hbyte, rfl, rfl, rfl⟩
  exact ⟨_, _, rfl, rfl⟩

/-! ### The frame -/

/-- R18: the phases behind the header of a frame, in which nothing is left to settle. -/
def Phase.behindHeader : Phase → Bool
  | .flen | .pid | .pdata | .fchk => true
  | _ => false

theorem State.settle_behindHeader (h : s.phase.behindHeader = true) : s.settle = s :=
  State.settle_eq_self (fun hphase => by rw [hphase] at h; cases h) (fun hphase => by rw [hphase] at h; cases h)

theorem Phase.waits_of_behindHeader {p : Phase} (h : p.behindHeader = true) : p.waits = true := by
  cases p with
  | flen | pid | pdata | fchk => rfl
  | _ => cases h

/-- R162: behind the header every byte is read at once. -/
theorem reads_behindHeader (h : s.phase.behindHeader = true) (b : Byte) : Reads [b] s (s.onItem (.byte b)) :=
  reads_byte (State.settle_behindHeader h) (Phase.waits_of_behindHeader h) b

/-- R153: the block has read `k` units of a frame, with the data bytes `stage` and the checksum `chk`: the next id byte
comes, or the checksum byte. -/
structure AtUnit (k : Nat) (stage : List Byte) (chk : Byte) (s : State) : Prop where
  phase : s.phase = if k < s.frameIds.length then .pid else .fchk
  idx : s.work.idx = k
  stage : s.work.stage = stage
  chk : s.work.chk = chk

theorem AtUnit.behindHeader {k : Nat} {stage : List Byte} {chk : Byte} (h : AtUnit k stage chk s) :
    s.phase.behindHeader = true := by
  rw [h.phase]
  split_ifs <;> rfl

/-- R156: the right frame length begins the first unit. -/
theorem reads_length (hphase : s.phase = .flen) {len : Byte} (hlen : len.toNat = s.work.total + s.frameIds.length) :
    ∃ u, s.goesOn u ∧ Reads [len] s u ∧ AtUnit 0 [] (s.work.chk + len) u := by
  have hbyte := reads_behindHeader (by rw [hphase]; rfl) len
  have hok : lengthOk len s.work.total s.frameIds.length = true := beq_iff_eq.2 hlen
  rw [State.onItem_flen hphase, State.onFlen, if_pos hok] at hbyte
  refine ⟨_, ?_, hbyte, ?_, rfl, rfl, rfl⟩
  · exact ⟨_, _, rfl, rfl⟩
  have hswap : (if s.frameIds.length = 0 then Phase.fchk else .pid) =
      if 0 < s.frameIds.length then .pid else .fchk := by
    rcases Nat.eq_zero_or_pos s.frameIds.length with hnone | hsome
    · rw [if_pos hnone, if_neg (by omega)]
    · rw [if_neg (by omega), if_pos hsome]
  exact hswap

end

/-- R153: the data bytes of a unit, of which there is one at least. -/
theorem reads_data {s : State} (hphase : s.phase = .pdata) {xs : List Byte} (hne : xs ≠ [])
    (hcnt : s.work.cnt = xs.length) :
    ∃ u, s.goesOn u ∧ Reads xs s u ∧ AtUnit (s.work.idx + 1) (s.work.stage ++ xs) (sumFrom s.work.chk xs) u := by
  induction xs generalizing s with
  | nil => exact absurd rfl hne
  | cons x xs ih =>
    have hbyte := reads_behindHeader (by rw [hphase]; rfl) x
    rw [State.onItem_pdata hphase, State.onPdata] at hbyte
    cases xs with
    | nil =>
      have hlast : s.work.cnt ≤ 1 := hcnt.le
      rw [if_pos hlast] at hbyte
      refine ⟨_, ?_, hbyte, rfl, rfl, rfl, rfl⟩
      exact ⟨_, _, rfl, rfl⟩
    | cons y ys =>
      have hmore : ¬ s.work.cnt ≤ 1 := by rw [hcnt, List.length_cons, List.length_cons]; omega
      have hleft : s.work.cnt - 1 = (y :: ys).length := by rw [hcnt, List.length_cons, Nat.add_sub_cancel]
      rw [if_neg hmore] at hbyte
      obtain ⟨u, hgoes, hreads, hunit⟩ := ih (s := { s with work := { s.work with
        stage := s.work.stage ++ [x], chk := addChecksum s.work.chk x, cnt := s.work.cnt - 1 } }) hphase
        (List.cons_ne_nil y ys) hleft
      refine ⟨u, .trans ⟨_, _, rfl, rfl⟩ hgoes, hbyte.append hreads, ?_⟩
      rw [List.append_assoc] at hunit
      exact hunit

/-- R157, R158: one unit of a frame, the id byte and its data. -/
theorem reads_unit {s : State} {k : Nat} {stage : List Byte} {chk : Byte} (h : AtUnit k stage chk s) {id : Byte}
    (hid : s.frameIds[k]? = some id) {xs : List Byte} (hpos : 1 ≤ totalLen s.cfg.catalogue [id])
    (hlen : xs.length = totalLen s.cfg.catalogue [id]) :
    ∃ u, s.goesOn u ∧ Reads (id :: xs) s u ∧ AtUnit (k + 1) (stage ++ xs) (sumFrom chk (id :: xs)) u := by
  obtain ⟨hk, -⟩ := List.getElem?_eq_some_iff.1 hid
  have hphase : s.phase = .pid := by rw [h.phase, if_pos hk]
  have hbyte := reads_behindHeader h.behindHeader id
  rw [State.onItem_pid hphase, State.onPid, h.idx, hid] at hbyte
  simp only [if_true] at hbyte
  have hne : xs ≠ [] := List.ne_nil_of_length_pos (by omega)
  obtain ⟨u, hgoes, hreads, hunit⟩ := reads_data (s := { s with
    phase := .pdata
    work := { s.work with chk := addChecksum s.work.chk id, cnt := unitLen s.cfg.catalogue id } }) rfl hne hlen.symm
  refine ⟨u, .trans ⟨_, _, rfl, rfl⟩ hgoes, hbyte.append hreads, ?_⟩
  rw [← h.idx, ← h.stage, ← h.chk]
  exact hunit

/-- R153: the units of `ids` in a frame, from any unit on. -/
theorem reads_body {s : State} {pre ids post stage : List Byte} {chk : Byte} (h : AtUnit pre.length stage chk s)
    (hids : s.frameIds = pre ++ ids ++ post) (hpos : ∀ id ∈ ids, 1 ≤ totalLen s.cfg.catalogue [id]) {data : List Byte}
    (hlen : data.length = totalLen s.cfg.catalogue ids) :
    ∃ u, s.goesOn u ∧ Reads (frameBody s.cfg.catalogue ids data) s u ∧
      AtUnit (pre.length + ids.length) (stage ++ data) (sumFrom chk (frameBody s.cfg.catalogue ids data)) u := by
  induction ids generalizing s pre stage chk data with
  | nil =>
    obtain rfl : data = [] := List.eq_nil_of_length_eq_zero hlen
    exact ⟨s, s.goesOn_refl, reads_nil s, by rwa [List.append_nil]⟩
  | cons id ids ih =>
    rw [totalLen_cons] at hlen
    have hid : s.frameIds[pre.length]? = some id := by simp [hids]
    have htake : (data.take (totalLen s.cfg.catalogue [id])).length = totalLen s.cfg.catalogue [id] := by
      rw [List.length_take]
      omega
    obtain ⟨t, hgoes, hreads, hunit⟩ := reads_unit h hid (hpos id List.mem_cons_self) htake
    have hidst : t.frameIds = (pre ++ [id]) ++ ids ++ post := by rw [hgoes.frameIds, hids]; simp
    have hnext : (pre ++ [id]).length = pre.length + 1 := List.length_append
    obtain ⟨u, hgoes', hreads', hunit'⟩ := ih (s := t) (pre := pre ++ [id]) (hnext ▸ hunit) hidst
      (data := data.drop (totalLen s.cfg.catalogue [id]))
      (by rw [hgoes.cfg]; exact fun i hi => hpos i (List.mem_cons_of_mem _ hi))
      (by rw [hgoes.cfg, List.length_drop]; omega)
    rw [hgoes.cfg] at hreads' hunit'
    refine ⟨u, hgoes.trans hgoes', hreads.append hreads', ?_⟩
    rw [← sumFrom_append, List.append_assoc, List.take_append_drop, hnext, Nat.add_right_comm] at hunit'
    exact hunit'

/-! ### READ_FRAME -/

theorem State.hunting_frameIds (ids : List Byte) (s : State) : (s.hunting ids).frameIds = frameIdsOf s.cfg ids := by
  unfold State.frameIds frameIdsOf
  rfl

/-- R153: with known ids, READ_FRAME is what RX makes of the hunt. -/
theorem execReadFrame_eq {s : State} {ids : List Byte} (hids : ids.all (inCatalogue s.cfg.catalogue) = true) :
    exec (.readFrame ids) s = .next (State.pump s.rx (s.hunting ids)) := by
  change execReadFrame ids s = _
  rw [execReadFrame, if_pos hids]
  rfl

/-- R239: an error in a frame leaves the state as it was, but for RX. -/
theorem endsIn_raise_hunting {s u : State} {ids : List Byte} (hgoes : (s.hunting ids).goesOn u) (status : Status)
    (sub : SubCause) (rest : List RxItem) :
    EndsIn (.next ((u.raise status sub).withRx rest)) ({ s with rx := rest }.failed (.readFrame ids) status sub) := by
  obtain ⟨p, w, rfl, -⟩ := hgoes
  exact ⟨Work.cleared, rfl⟩

section
variable {s : State} {ids garbage : List Byte}

/-- R155: garbage within the budget, and the header. -/
theorem reads_garbage_header (hlen : garbage.length < totalLen s.cfg.catalogue ids) (hno : header ∉ garbage) :
    ∃ u, (s.hunting ids).goesOn u ∧ Reads (garbage ++ [header]) (s.hunting ids) u ∧ u.phase = .flen ∧
      u.work.total = totalLen s.cfg.catalogue ids ∧ u.work.chk = header := by
  have hdisc : (s.hunting ids).work.disc = 0 := rfl
  have htotal : (s.hunting ids).work.total = totalLen s.cfg.catalogue ids := rfl
  have hgarbage := reads_garbage (s := s.hunting ids) rfl hno (by omega)
  obtain ⟨u, hgoes, hreads, hphase, hsame, hchk⟩ :=
    reads_header (s := (s.hunting ids).discarded garbage.length) rfl (by
      simp only [State.discarded]
      omega)
  exact ⟨u, (State.discarded_goesOn _ _).trans hgoes, hgarbage.append hreads, hphase, hsame, hchk⟩

/-- R82: the frame length byte of a frame for `ids`. -/
def frameLength (c : Config) (ids : List Byte) : Byte :=
  BitVec.ofNat 8 (totalLen c.catalogue ids + (frameIdsOf c ids).length)

/-- R155, R156: garbage, header and frame length bring the block to the first unit. -/
theorem reads_front (hlen : garbage.length < totalLen s.cfg.catalogue ids) (hno : header ∉ garbage)
    (hfits : totalLen s.cfg.catalogue ids + (frameIdsOf s.cfg ids).length ≤ 255) :
    ∃ u, (s.hunting ids).goesOn u ∧ Reads (garbage ++ [header, frameLength s.cfg ids]) (s.hunting ids) u ∧
      AtUnit 0 [] (sumFrom 0#8 [header, frameLength s.cfg ids]) u := by
  obtain ⟨t, hgoes, hreads, hphase, htotal, hchk⟩ := reads_garbage_header hlen hno
  have hbyte : (frameLength s.cfg ids).toNat = t.work.total + t.frameIds.length := by
    rw [hgoes.frameIds, State.hunting_frameIds, htotal, frameLength, BitVec.toNat_ofNat]
    omega
  obtain ⟨u, hgoes', hreads', hunit⟩ := reads_length hphase hbyte
  refine ⟨u, hgoes.trans hgoes', ?_, ?_⟩
  · have hboth := hreads.append hreads'
    rwa [List.append_assoc] at hboth
  · rw [hchk] at hunit
    exact hunit

variable (hwf : s.cfg.wf = true) (hids : ids.all (inCatalogue s.cfg.catalogue) = true)
include hwf hids

/-- R157, R158: the ids of a frame are known, in both id modes. -/
theorem frameIdsOf_known :
    ∀ id ∈ frameIdsOf s.cfg ids, inCatalogue s.cfg.catalogue id = true := by
  obtain ⟨hc, -⟩ := Config.wf_parts hwf
  rw [← State.hunting_frameIds]
  exact State.frameSetUp.frameIds_known (s := s.hunting ids) hc (State.hunting_frameSetUp hids)

theorem totalLen_frameIdsOf :
    totalLen s.cfg.catalogue (frameIdsOf s.cfg ids) = totalLen s.cfg.catalogue ids := by
  obtain ⟨hc, -⟩ := Config.wf_parts hwf
  rw [← State.hunting_frameIds]
  exact State.frameSetUp.totalLen_frameIds (s := s.hunting ids) hc (State.hunting_frameSetUp hids)

/-- R153: garbage, header, frame length and the first units of a frame. -/
theorem reads_units {us vs data : List Byte} (hlen : garbage.length < totalLen s.cfg.catalogue ids)
    (hno : header ∉ garbage) (hfits : totalLen s.cfg.catalogue ids + (frameIdsOf s.cfg ids).length ≤ 255)
    (hunits : frameIdsOf s.cfg ids = us ++ vs) (hdata : data.length = totalLen s.cfg.catalogue us) :
    ∃ u, (s.hunting ids).goesOn u ∧
      Reads (garbage ++ [header, frameLength s.cfg ids] ++ frameBody s.cfg.catalogue us data) (s.hunting ids) u ∧
      AtUnit us.length data
        (byteSum ([header, frameLength s.cfg ids] ++ frameBody s.cfg.catalogue us data)) u := by
  obtain ⟨hc, -⟩ := Config.wf_parts hwf
  obtain ⟨t, hgoes, hreads, hunit⟩ := reads_front hlen hno hfits
  have hcfg : t.cfg = s.cfg := hgoes.cfg
  have hframe : t.frameIds = [] ++ us ++ vs := by rw [hgoes.frameIds, State.hunting_frameIds, hunits, List.nil_append]
  have hpos : ∀ id ∈ us, 1 ≤ totalLen t.cfg.catalogue [id] := fun id hid => by
    rw [hcfg]
    exact totalLen_singleton_pos hc (frameIdsOf_known hwf hids id (hunits ▸ List.mem_append_left vs hid))
  obtain ⟨u, hgoes', hreads', hunit'⟩ := reads_body (pre := []) hunit hframe hpos (hcfg.symm ▸ hdata)
  rw [hcfg, ← sumFrom_append, List.length_nil, Nat.zero_add] at hunit'
  rw [hcfg] at hreads'
  exact ⟨u, hgoes.trans hgoes', hreads.append hreads', hunit'⟩

/-- R81, R153: garbage and a frame up to its checksum byte. -/
theorem reads_frame {data : List Byte} (hlen : garbage.length < totalLen s.cfg.catalogue ids) (hno : header ∉ garbage)
    (hdata : data.length = totalLen s.cfg.catalogue ids)
    (hfits : totalLen s.cfg.catalogue ids + (frameIdsOf s.cfg ids).length ≤ 255) :
    ∃ u, (s.hunting ids).goesOn u ∧ Reads (garbage ++ frameHead s.cfg ids data) (s.hunting ids) u ∧
      u.phase = .fchk ∧ u.work.stage = data ∧ u.work.chk = byteSum (frameHead s.cfg ids data) := by
  obtain ⟨u, hgoes, hreads, hunit⟩ := reads_units hwf hids (vs := []) hlen hno hfits (List.append_nil _).symm
    (hdata.trans (totalLen_frameIdsOf hwf hids).symm)
  refine ⟨u, hgoes, ?_, ?_, hunit.stage, hunit.chk⟩
  · rwa [List.append_assoc] at hreads
  · rw [hunit.phase, hgoes.frameIds, State.hunting_frameIds, if_neg (Nat.lt_irrefl _)]

/-- R159, R163: the checksum byte is the last one read; what it does is for `onFchk` to say. -/
theorem pump_frame_eq {data : List Byte} (hlen : garbage.length < totalLen s.cfg.catalogue ids) (hno : header ∉ garbage)
    (hdata : data.length = totalLen s.cfg.catalogue ids)
    (hfits : totalLen s.cfg.catalogue ids + (frameIdsOf s.cfg ids).length ≤ 255) (ck : Byte) :
    ∃ u, (s.hunting ids).goesOn u ∧ u.work.stage = data ∧ u.work.chk = byteSum (frameHead s.cfg ids data) ∧
      ∀ items, State.pump (rxBytes (garbage ++ frameHead s.cfg ids data ++ [ck]) ++ items) (s.hunting ids) =
        (u.onFchk ck).withRx items := by
  obtain ⟨u, hgoes, hreads, hphase, hstage, hchk⟩ := reads_frame hwf hids hlen hno hdata hfits
  refine ⟨u, hgoes, hstage, hchk, fun items => ?_⟩
  have hbyte := reads_behindHeader (by rw [hphase]; rfl) ck
  rw [State.onItem_fchk hphase] at hbyte
  have hidle : (u.onFchk ck).phase = .idle := by unfold State.onFchk; split_ifs <;> rfl
  rw [hreads.append hbyte items, State.pump_idle items hidle]

/-- R81: bytes that fall short of a frame leave the block waiting. -/
theorem ShortOfFrame.waitsAfter {bs : List Byte} (h : ShortOfFrame s.cfg ids bs) :
    ∃ u, WaitsAfter (rxBytes bs) (s.hunting ids) u := by
  obtain ⟨front, data, part, missing, ck, hlen, hno, hdata, hfits, hparts, hmissing, rfl⟩ := h
  obtain ⟨u, -, -, -, hpump⟩ := pump_frame_eq hwf hids hlen hno hdata hfits ck
  refine waitsAfter_of_rx_nil (ys := rxBytes missing) (.inr rfl) (by simpa [rxBytes] using hmissing) ?_
  have hwhole := hpump []
  rw [List.append_assoc, hparts, ← List.append_assoc, rxBytes_append, List.append_nil] at hwhole
  rw [hwhole]
  rfl

end

theorem byteSum_append_singleton (bs : List Byte) (b : Byte) : byteSum (bs ++ [b]) = byteSum bs + b :=
  List.foldl_append

/-- Settles O35: the checksum byte completes the sum to 0, and the frame's data is committed. -/
theorem goodFrameIsDecoded : Obligations.GoodFrameIsDecoded := by
  intro s ids garbage data ck rest hwf hids hlen hno hdata hfits hsum hrx
  obtain ⟨u, hgoes, hstage, hchk, hpump⟩ := pump_frame_eq hwf hids hlen hno hdata hfits ck
  have hok : checksumOk (addChecksum u.work.chk ck) = true := by
    rw [checksumOk, addChecksum, hchk, ← byteSum_append_singleton, hsum]
    rfl
  rw [execReadFrame_eq hids, hrx, hpump, State.onFchk, if_pos hok]
  have halist : u.work.alist = expandList s.cfg.catalogue ids := hgoes.alist
  refine ⟨Work.cleared, congrArg Host.Outcome.next ?_⟩
  rw [State.commitStage, hstage, halist]
  obtain ⟨p, w, rfl, -⟩ := hgoes
  rfl

/-- Settles O36: the checksum byte completes the sum to another value. -/
theorem badChecksumIsReported : Obligations.BadChecksumIsReported := by
  intro s ids garbage data ck rest hwf hids hlen hno hdata hfits hsum hrx
  obtain ⟨u, hgoes, -, hchk, hpump⟩ := pump_frame_eq hwf hids hlen hno hdata hfits ck
  have hbad : ¬ checksumOk (addChecksum u.work.chk ck) = true := by
    rwa [checksumOk, addChecksum, hchk, ← byteSum_append_singleton, beq_iff_eq]
  rw [execReadFrame_eq hids, hrx, hpump, State.onFchk, if_neg hbad]
  exact endsIn_raise_hunting hgoes _ _ rest

/-- Settles O37: the garbage exhausts the budget, which is tested before the next byte is read. -/
theorem huntGivesUpAtTheBudget : Obligations.HuntGivesUpAtTheBudget := by
  intro s ids garbage rest hids hlen hno hrx
  have hdisc : (s.hunting ids).work.disc + garbage.length = (s.hunting ids).work.total := (Nat.zero_add _).trans hlen
  have hreads := reads_garbage (s := s.hunting ids) rfl hno hdisc.le
  have hsettle : ((s.hunting ids).discarded garbage.length).settle =
      ((s.hunting ids).discarded garbage.length).raise .protocolDesync .none := by
    rw [State.settle_hunt rfl]
    exact if_pos hdisc
  rw [execReadFrame_eq hids, hrx, hreads.pump_of_idle (by rw [hsettle]; rfl), hsettle]
  exact endsIn_raise_hunting (State.discarded_goesOn _ _) _ _ rest

/-- Settles O38: the byte after the header is compared as a natural number. -/
theorem wrongLengthIsReported : Obligations.WrongLengthIsReported := by
  intro s ids garbage len rest hids hlen hno hbad hrx
  obtain ⟨u, hgoes, hreads, hphase, htotal, -⟩ := reads_garbage_header hlen hno
  have hbyte := reads_behindHeader (by rw [hphase]; rfl) len
  have hwrong : ¬ lengthOk len u.work.total u.frameIds.length = true := by
    rwa [lengthOk, htotal, hgoes.frameIds, State.hunting_frameIds, beq_iff_eq]
  rw [State.onItem_flen hphase, State.onFlen, if_neg hwrong] at hbyte
  have hall := hreads.append hbyte
  rw [List.append_assoc] at hall
  rw [execReadFrame_eq hids, hrx]
  refine (hall.pump_of_idle rfl rest) ▸ ?_
  exact endsIn_raise_hunting hgoes _ _ rest

/-- Settles O39: after the right units the next id byte is compared with the expected one. -/
theorem wrongIdIsReported : Obligations.WrongIdIsReported := by
  intro s ids garbage data us vs want got rest hwf hids hlen hno hfits hunits hdata hne hrx
  obtain ⟨u, hgoes, hreads, hunit⟩ := reads_units hwf hids hlen hno hfits hunits hdata
  have hframe : u.frameIds = us ++ want :: vs := by rw [hgoes.frameIds, State.hunting_frameIds, hunits]
  have hphase : u.phase = .pid := by rw [hunit.phase, hframe, if_pos (by simp)]
  have hwant : u.frameIds[u.work.idx]? = some want := by rw [hunit.idx, hframe]; simp
  have hbyte := reads_behindHeader hunit.behindHeader got
  rw [State.onItem_pid hphase, State.onPid, hwant] at hbyte
  simp only [if_neg hne] at hbyte
  rw [execReadFrame_eq hids, hrx]
  refine ((hreads.append hbyte).pump_of_idle rfl rest) ▸ ?_
  exact endsIn_raise_hunting hgoes _ _ rest

end Sys2Proof.Machine

/-! PROOFS. Reads of which the bytes do not all come (R23, R138, R141, R233): for the requests and for READ_FRAME, they
wait, time out, or fail; and the two frame id modes on lists of atomic ids (R158). -/
namespace Sys2Proof.Machine

/-! ### Short of a frame -/

/-- R18: a frame read that waits does so in a phase of its own. -/
theorem frame_phase_of_waits {s u : State} {ids : List Byte} {xs : List RxItem}
    (h : WaitsAfter xs (s.hunting ids) u) (ht : s.cfg.rxTimeout = none) : u.phase ≠ .resp := by
  intro hphase
  have houtcome := State.pump_frameOutcome (s := s.hunting ids) xs (.inl rfl)
  rw [h.pump_eq_withRx ht] at houtcome
  rcases houtcome with hframe | ⟨hidle, -⟩
  · rw [State.withRx_phase, hphase] at hframe
    cases hframe
  · cases hphase.symm.trans hidle

section
variable {s : State} {ids bs : List Byte} (hwf : s.cfg.wf = true)
  (hids : ids.all (inCatalogue s.cfg.catalogue) = true) (hshort : ShortOfFrame s.cfg ids bs)
include hwf hids hshort

/-- R23: without a time-out READ_FRAME waits. -/
theorem execReadFrame_waits (hrx : s.rx = rxBytes bs) (ht : s.cfg.rxTimeout = none) :
    ∃ t, exec (.readFrame ids) s = .next t ∧ t.phase.waits = true ∧ t.phase ≠ .resp ∧ t.rx = [] ∧
      t.cache = s.cache ∧ t.res = s.res ∧ t.txLog = s.txLog := by
  obtain ⟨u, hu⟩ := hshort.waitsAfter hwf hids
  have hphase := frame_phase_of_waits hu ht
  refine ⟨u.withRx [], ?_, hu.waits, hphase, rfl, ?_⟩
  · rw [execReadFrame_eq hids, hrx, hu.pump_eq_withRx ht]
  · obtain ⟨p, w, rfl, -⟩ := hu.goesOn
    exact ⟨rfl, rfl, rfl⟩

/-- R23, R233: with a time-out it fails. -/
theorem execReadFrame_timesOut (hrx : s.rx = rxBytes bs) (ht : s.cfg.rxTimeout.isSome = true) :
    EndsIn (exec (.readFrame ids) s) ({ s with rx := [] }.failed (.readFrame ids) .transportFailure .none) := by
  obtain ⟨u, hu⟩ := hshort.waitsAfter hwf hids
  rw [execReadFrame_eq hids, hrx, hu.pump_timeout ht]
  exact endsIn_raise_hunting hu.goesOn _ _ []

/-- R163, R233: and so it does if a byte fails. -/
theorem execReadFrame_fails {rest : List RxItem} (hrx : s.rx = rxBytes bs ++ .fail :: rest) :
    EndsIn (exec (.readFrame ids) s) ({ s with rx := rest }.failed (.readFrame ids) .transportFailure .none) := by
  obtain ⟨u, hu⟩ := hshort.waitsAfter hwf hids
  rw [execReadFrame_eq hids, hrx, hu.pump_fail]
  exact endsIn_raise_hunting hu.goesOn _ _ rest

end

/-- R233: an operation that would wait fails, if a failure follows what it has read. -/
theorem exec_fails_of_waits {i : Instr} {s t : State} (ht : s.cfg.rxTimeout = none) (h : exec i s = .next t)
    (hbusy : t.phase ≠ .idle) (rest : List RxItem) :
    EndsIn (exec i (s.deliver (.fail :: rest))) ({ t with rx := rest }.failed i .transportFailure .none) := by
  rcases exec_deliver h with ⟨hidle, -⟩ | ⟨u, hcfg, hwaits, hcmd, hpump, hdeliver⟩
  · exact absurd hidle hbusy
  · obtain ⟨v, hv, rfl⟩ := waitsAfter_of_pump (.inr hwaits) (hcfg ▸ ht) hpump.symm hbusy
    rw [hdeliver, hv.pump_fail]
    refine ⟨Work.cleared, congrArg Host.Outcome.next ?_⟩
    obtain ⟨p, w, rfl, -⟩ := hv.goesOn
    rw [State.failed, ← hcmd]
    rfl

/-- R130: a packet is as long as the list of it alone. -/
theorem lt_totalLen_singleton {s : State} {id : Byte} {n : Nat} (hwf : s.cfg.wf = true)
    (hid : inCatalogue s.cfg.catalogue id = true) (h : n < byteLength s.cfg.catalogue id) :
    n < totalLen s.cfg.catalogue (requestedIds (.readPacket id)) := by
  obtain ⟨hc, -⟩ := Config.wf_parts hwf
  rwa [requestedIds, totalLen_singleton_eq hc hid]

/-- Settles O32: the block waits after the bytes, a request in RESP. -/
theorem shortResponseWaits : Obligations.ShortResponseWaits := by
  refine ⟨fun s id bs hwf htab ht hid hw hrx hlen => ?_, fun s ids bs hwf htab ht hids hw hrx hlen => ?_,
    fun s ids bs hwf ht hids hshort hrx => execReadFrame_waits hwf hids hshort hrx ht⟩
  · exact (requests_readPacket hwf htab hid hw).waits (lt_totalLen_singleton hwf hid hlen) hrx ht
  · obtain ⟨t, hexec, hphase, hstage, hrxt, hcache, hres, hlog⟩ :=
      (requests_readPacketList hwf htab hids hw).waits hlen hrx ht
    exact ⟨t, hexec, hphase, hstage, hrxt, hcache, hres, hlog.trans (List.append_assoc _ _ _).symm⟩

/-- Settles O33: a failure ends the wait after the bytes, of a read and of every operation that waits. -/
theorem failedResponseWritesNoEntry : Obligations.FailedResponseWritesNoEntry := by
  refine ⟨fun s id bs rest hwf htab hid hw hrx hlen => ?_, fun s ids bs rest hwf htab hids hw hrx hlen => ?_,
    fun s ids bs rest hwf hids hshort hrx => execReadFrame_fails hwf hids hshort hrx,
    fun i s t rest ht h hbusy => exec_fails_of_waits ht h hbusy rest⟩
  · exact (requests_readPacket hwf htab hid hw).fails (lt_totalLen_singleton hwf hid hlen) hrx
  · exact (requests_readPacketList hwf htab hids hw).fails hlen hrx

/-- Settles O43: the time-out ends the wait after the bytes. -/
theorem timeOutEndsTheWait : Obligations.TimeOutEndsTheWait := by
  refine ⟨fun s id bs hwf htab ht hid hw hrx hlen => ?_, fun s ids bs hwf htab ht hids hw hrx hlen => ?_,
    fun s ids bs hwf ht hids hshort hrx => execReadFrame_timesOut hwf hids hshort hrx ht⟩
  · exact (requests_readPacket hwf htab hid hw).timesOut (lt_totalLen_singleton hwf hid hlen) hrx ht
  · exact (requests_readPacketList hwf htab hids hw).timesOut hlen hrx ht

/-! ### The two id modes -/

/-- R157, R158: the same block with another frame id mode. -/
def State.withIdMode (mode : FrameIdMode) (s : State) : State :=
  { s with cfg := { s.cfg with frameIdMode := mode } }

@[simp] theorem State.withIdMode_phase (mode : FrameIdMode) (s : State) : (s.withIdMode mode).phase = s.phase := rfl
@[simp] theorem State.withIdMode_work (mode : FrameIdMode) (s : State) : (s.withIdMode mode).work = s.work := rfl
@[simp] theorem State.withIdMode_rxTimeout (mode : FrameIdMode) (s : State) :
    (s.withIdMode mode).cfg.rxTimeout = s.cfg.rxTimeout := rfl

/-- R158: where the expected packets are the requested ids, a frame's ids are the same in both modes. -/
theorem State.frameIds_withIdMode {s : State} (h : s.work.alist = s.cmd.idList) (mode : FrameIdMode) :
    (s.withIdMode mode).frameIds = s.frameIds := by
  have hids : ∀ t : State, t.work.alist = t.cmd.idList → t.frameIds = t.work.alist := fun t ht => by
    unfold State.frameIds
    split
    · rfl
    · exact ht.symm
  rw [hids s h, hids (s.withIdMode mode) h]
  rfl

theorem State.settle_withIdMode (mode : FrameIdMode) (s : State) :
    (s.withIdMode mode).settle = s.settle.withIdMode mode := by
  unfold State.settle
  rw [State.withIdMode_phase, State.withIdMode_work]
  cases s.phase <;> simp only [apply_ite (State.withIdMode mode)] <;> rfl

theorem State.onItem_withIdMode {s : State} (h : s.work.alist = s.cmd.idList) (mode : FrameIdMode) (item : RxItem) :
    (s.withIdMode mode).onItem item = (s.onItem item).withIdMode mode := by
  have hids := State.frameIds_withIdMode h mode
  cases item with
  | fail => rfl
  | byte b =>
    simp only [State.onItem, State.withIdMode_phase]
    cases s.phase with
    | hunt => simp only [State.onHunt, apply_ite (State.withIdMode mode)]; rfl
    | flen => simp only [State.onFlen, hids, apply_ite (State.withIdMode mode)]; rfl
    | pid =>
      simp only [State.onPid, hids, State.withIdMode_work]
      cases s.frameIds[s.work.idx]? with
      | none => rfl
      | some want => simp only [apply_ite (State.withIdMode mode)]; rfl
    | pdata => simp only [State.onPdata, hids, apply_ite (State.withIdMode mode)]; rfl
    | fchk => simp only [State.onFchk, apply_ite (State.withIdMode mode)]; rfl
    | _ => rfl

/-- `t` is `s` in another id mode, in which a frame has the same ids until the operation has ended. -/
def State.sameButIdMode (mode : FrameIdMode) (s t : State) : Prop :=
  t = s.withIdMode mode ∧ (s.phase = .idle ∨ s.work.alist = s.cmd.idList)

/-- R158: with the requested ids expected, RX makes the same of a block in both modes. -/
theorem State.pump_withIdMode {s : State} (h : s.work.alist = s.cmd.idList) (mode : FrameIdMode)
    (items : List RxItem) : State.pump items (s.withIdMode mode) = (State.pump items s).withIdMode mode := by
  refine (pump_rel (R := State.sameButIdMode mode) ?_ ?_ ?_ ?_ ?_ items ⟨rfl, .inr h⟩).1
  · rintro s t ⟨rfl, -⟩
    rfl
  · rintro s t ⟨rfl, hs⟩
    refine ⟨State.settle_withIdMode mode s, ?_⟩
    rcases s.settle_cases with hsame | ⟨-, -, hend⟩ | ⟨-, -, hend⟩
    · rwa [hsame]
    · exact .inl (hend ▸ rfl)
    · exact .inl (hend ▸ rfl)
  · rintro item s t ⟨rfl, hs⟩ hwaits
    have hlist : s.work.alist = s.cmd.idList := hs.resolve_left fun hidle => by rw [hidle] at hwaits; cases hwaits
    refine ⟨State.onItem_withIdMode hlist mode item, ?_⟩
    rcases s.onItem_idle_or_goesOn item with hidle | hgoes
    · exact .inl hidle
    · obtain ⟨-, -, -, hcmd, -⟩ := (State.onItem_frame item s).1
      exact .inr (by rw [hgoes.alist, hcmd, hlist])
  · rintro s t ⟨rfl, hs⟩ -
    refine ⟨?_, ?_⟩
    · rw [State.rxExhausted, State.rxExhausted, State.withIdMode_rxTimeout]
      cases s.cfg.rxTimeout <;> rfl
    · unfold State.rxExhausted
      split
      · exact hs
      · exact .inl rfl
  · rintro rx s t ⟨rfl, hs⟩
    exact ⟨rfl, hs⟩

/-- Settles O40: atomic ids expand to themselves, so the ids of the frame are the requested ones in both modes. -/
theorem idModesAgreeOnAtomicLists : Obligations.IdModesAgreeOnAtomicLists := by
  intro s ids mode _ hatoms
  have hids : ids.all (inCatalogue s.cfg.catalogue) = true := List.all_eq_true.2 fun a ha => (hatoms a ha).1
  have hlist : (s.hunting ids).work.alist = (s.hunting ids).cmd.idList := expandList_atoms hatoms
  have hmode : exec (.readFrame ids) (s.withIdMode mode) = _ := execReadFrame_eq (s := s.withIdMode mode) hids
  rw [execReadFrame_eq hids]
  exact hmode.trans (congrArg Host.Outcome.next (State.pump_withIdMode hlist mode s.rx))

end Sys2Proof.Machine
